-- ==== Sys2Proof/Word.lean ====
section
/-! DEFINITION. The word types of the core and the four-word block, with their plainest arithmetic
(00_scope.md R10, R13). -/

namespace Sys2Proof

/-- A 32-bit register or datapath word (00_scope.md R10). -/
abbrev Word := BitVec 32

/-- A byte of a word, or the opcode field of a command word. -/
abbrev Byte := BitVec 8

/-- The word tuple `(W0, W1, W2, W3)` of a 16-byte value (00_scope.md R14): the contents of KEY, DIN,
DOUT, HST, WK or KSL, and the four branches of the Feistel network. -/
structure Block where
  w0 : Word
  w1 : Word
  w2 : Word
  w3 : Word
deriving DecidableEq, Repr

/-- Sixteen zero bytes. -/
def Block.zero : Block := ⟨0, 0, 0, 0⟩

/-- Exclusive-or of two blocks, word by word (00_scope.md R13). -/
def Block.xor (x y : Block) : Block :=
  ⟨x.w0 ^^^ y.w0, x.w1 ^^^ y.w1, x.w2 ^^^ y.w2, x.w3 ^^^ y.w3⟩

end Sys2Proof
end

