-- ==== Sys2Proof/Syntax.lean ====
section
/-! DEFINITION. The syntax: opcodes, instructions (one constructor per row of spec/opcode_table.json),
the two word formats, the register names of 10_state.md R21 and the host program lines of
30_encoding.md R87 and R88. -/

namespace Sys2Proof

/-- The 18 opcodes of 30_encoding.md R82. -/
inductive Opcode where
  | nop | gfmul | sbox0 | sbox1 | mix0 | mix1 | f0 | f1
  | sigma | ksexp | setkey
  | gfnf | gfni | enc | dec
  | hinit | hblk
  | srst
deriving DecidableEq, Repr

/-- The instructions: the 18 commands (format CMD32, 30_encoding.md R80) and the two host
transactions (format HOSTBUS, 46_control.md R193 and R194). A command has no operand field (R85). -/
inductive Instr where
  | nop | gfmul | sbox0 | sbox1 | mix0 | mix1 | f0 | f1
  | sigma | ksexp | setkey
  | gfnf | gfni | enc | dec
  | hinit | hblk
  | srst
  /-- `rd <reg>`: a host read of the register at word index `addr`. -/
  | rd (addr : BitVec 8)
  /-- `wr <reg>, v`: a host write of `data` to the register at word index `addr`. -/
  | wr (addr : BitVec 8) (data : Word)
deriving DecidableEq, Repr

/-- An encoded instruction. A CMD32 word is the datum of a host write to CMD (30_encoding.md R80). A
HOSTBUS word is the 41 bus bits `we`, `addr`, `wdata` of one transaction (00_scope.md R9). -/
inductive CodeWord where
  | cmd32 (w : Word)
  | hostbus (w : BitVec 41)
deriving DecidableEq, Repr

/-- The registers of the map, under their own names (10_state.md R21). -/
inductive Reg where
  | ident | cmd | status | irqen
  | key (j : Fin 4) | din (j : Fin 4) | dout (j : Fin 4) | hst (j : Fin 4)
  | opa | opb | res
  | wk (j : Fin 4) | ksl (j : Fin 4)
  | rk (i : Fin 36)
deriving DecidableEq, Repr

/-- The four-word registers that `ldq` and `rdq` name (30_encoding.md R88). -/
inductive Quad where
  | key | din | dout | hst | wk | ksl
deriving DecidableEq, Repr

/-- One line of a host program (30_encoding.md R87, R88). Immediates are the numbers that the hex
literals spell. -/
inductive Line where
  | wr (r : Reg) (imm32 : Nat)
  | rd (r : Reg)
  | cmd (op : Opcode)
  | wait
  | run (op : Opcode)
  | ldq (q : Quad) (hex128 : Nat)
  | rdq (q : Quad)
  | clr
deriving DecidableEq, Repr

end Sys2Proof
end

