-- ==== Sys2Proof/Config.lean ====
section
/-! DEFINITION. The open parameters of 00_scope.md R11 and 93_implementation_defined.md (U1, U2, U5): free
values, constants with no body. Each is applied to the counter `draws` of State, which moves on at
every draw, so that each draw is fresh. `BASE` (U3) is read by no rule and has no constant. -/

namespace Sys2Proof

/-- BUSYREAD: what the n-th draw of a read of W(pend) during BUSY returns (20_memory.md R66). -/
opaque Config.busyRead : Nat → Word

/-- LAT(op), less one: the latency of an acceptance is `Config.latency op n + 1`, so that it is any
positive number, possibly different at each acceptance (00_scope.md R11). -/
opaque Config.latency : Opcode → Nat → Nat

/-- `rdata` in a cycle with `rst = 1` (70_reset_and_hazards.md R241). -/
opaque Config.rstRdata : Nat → Word

end Sys2Proof
end

