-- ==== Sys2Proof/WellFormed.lean ====
section
/-! DEFINITION. Which terms of the syntax are well formed. -/

namespace Sys2Proof

/-- Every instruction is well formed: a command has no operand field (30_encoding.md R85), and every
8-bit index and every 32-bit datum may stand in a transaction, reserved indices included
(20_memory.md R60, R65). -/
def Instr.wellFormed (i : Instr) : Bool :=
  match i with
  | .nop | .gfmul | .sbox0 | .sbox1 | .mix0 | .mix1 | .f0 | .f1 => true
  | .sigma | .ksexp | .setkey => true
  | .gfnf | .gfni | .enc | .dec => true
  | .hinit | .hblk => true
  | .srst => true
  | .rd _ => true
  | .wr _ _ => true

/-- The legal values of the OP field: all bytes but the illegal space 0x08–0x0F, 0x13–0x1F, 0x24–0x2F
and 0x32–0xFE (30_encoding.md R83). -/
def legalOp (b : Byte) : Bool :=
  let n := b.toNat
  !(0x08 ≤ n && n ≤ 0x0F || 0x13 ≤ n && n ≤ 0x1F || 0x24 ≤ n && n ≤ 0x2F || 0x32 ≤ n && n ≤ 0xFE)

/-- A code word that is the one spelling of an instruction: a CMD32 word with RSV = 0 and a legal OP
(30_encoding.md R81); a HOSTBUS word whose ignored bits (the `wdata` of a read) are 0. -/
def CodeWord.canonical (c : CodeWord) : Bool :=
  match c with
  | .cmd32 w => w.extractLsb' 8 24 == 0 && legalOp (w.extractLsb' 0 8)
  | .hostbus w => w.getLsbD 40 || w.extractLsb' 0 32 == 0

/-- A host program line that R87 and R88 of 30_encoding.md allow: `<imm32>` has at most 8 hex digits,
`<hex128>` at most 32, and `ldq` loads KEY, DIN or HST only. -/
def Line.wellFormed (l : Line) : Bool :=
  match l with
  | .wr _ imm => decide (imm < 2 ^ 32)
  | .ldq q hex => decide (hex < 2 ^ 128) && (q == .key || q == .din || q == .hst)
  | .rd _ => true
  | .cmd _ => true
  | .wait => true
  | .run _ => true
  | .rdq _ => true
  | .clr => true

end Sys2Proof
end

