-- ==== Sys2Proof/Decode.lean ====
section
/-! DEFINITION. The decoder, total on both word formats and rejecting by name, and the encoder
(30_encoding.md R80–R83; 46_control.md R193, R194; spec/opcode_table.json). -/

namespace Sys2Proof

/-- Why a CMD32 word spells no command. -/
inductive DecodeError where
  /-- `RSV ≠ 0` (30_encoding.md R81). -/
  | rsvNonzero
  /-- `RSV = 0` and OP in the illegal space (30_encoding.md R83). -/
  | illegalOpcode
deriving DecidableEq, Repr

/-- What a decoder answers: a value, or a rejection by name. -/
inductive Decoded (α : Type) where
  | ok (a : α)
  | bad (e : DecodeError)
deriving DecidableEq, Repr

/-- The OP column of 30_encoding.md R82. -/
def Opcode.code : Opcode → Byte
  | .nop => 0x00
  | .gfmul => 0x01
  | .sbox0 => 0x02
  | .sbox1 => 0x03
  | .mix0 => 0x04
  | .mix1 => 0x05
  | .f0 => 0x06
  | .f1 => 0x07
  | .sigma => 0x10
  | .ksexp => 0x11
  | .setkey => 0x12
  | .gfnf => 0x20
  | .gfni => 0x21
  | .enc => 0x22
  | .dec => 0x23
  | .hinit => 0x30
  | .hblk => 0x31
  | .srst => 0xFF

/-- The rows of 30_encoding.md R82, in order. -/
def Opcode.all : List Opcode :=
  [.nop, .gfmul, .sbox0, .sbox1, .mix0, .mix1, .f0, .f1, .sigma, .ksexp, .setkey,
   .gfnf, .gfni, .enc, .dec, .hinit, .hblk, .srst]

/-- The instruction that a command opcode names. -/
def Opcode.instr : Opcode → Instr
  | .nop => .nop
  | .gfmul => .gfmul
  | .sbox0 => .sbox0
  | .sbox1 => .sbox1
  | .mix0 => .mix0
  | .mix1 => .mix1
  | .f0 => .f0
  | .f1 => .f1
  | .sigma => .sigma
  | .ksexp => .ksexp
  | .setkey => .setkey
  | .gfnf => .gfnf
  | .gfni => .gfni
  | .enc => .enc
  | .dec => .dec
  | .hinit => .hinit
  | .hblk => .hblk
  | .srst => .srst

/-- The row of the opcode map with this OP, if there is one. -/
def decodeOp (b : Byte) : Option Opcode := Opcode.all.find? fun op => op.code == b

/-- Decoding of a command word: RSV must be 0 and OP a row of the map (30_encoding.md R80, R81). -/
def decodeCmd (v : Word) : Decoded Opcode :=
  if v.extractLsb' 8 24 = 0 then
    match decodeOp (v.extractLsb' 0 8) with
    | some op => .ok op
    | none => .bad .illegalOpcode
  else .bad .rsvNonzero

/-- Decoding of a bus transaction: `we` is bit 40, `addr` bits 39:32 and `wdata` bits 31:0
(46_control.md R193, R194). Every one is legal. -/
def decodeBus (w : BitVec 41) : Instr :=
  if w.getLsbD 40 then .wr (w.extractLsb' 32 8) (w.extractLsb' 0 32) else .rd (w.extractLsb' 32 8)

/-- The decoder. -/
def decode (c : CodeWord) : Decoded Instr :=
  match c with
  | .cmd32 w =>
    match decodeCmd w with
    | .ok op => .ok op.instr
    | .bad e => .bad e
  | .hostbus w => .ok (decodeBus w)

/-- The command word of an opcode: `zext_32(OP)` (30_encoding.md R87). -/
def encodeCmd (op : Opcode) : Word := op.code.setWidth 32

/-- The bus word `we ‖ addr ‖ wdata`. -/
def encodeBus (we : Bool) (addr : BitVec 8) (wdata : Word) : BitVec 41 :=
  BitVec.ofBool we ++ (addr ++ wdata)

/-- The encoder: one arm per instruction. -/
def encode (i : Instr) : CodeWord :=
  match i with
  | .nop => .cmd32 (encodeCmd .nop)
  | .gfmul => .cmd32 (encodeCmd .gfmul)
  | .sbox0 => .cmd32 (encodeCmd .sbox0)
  | .sbox1 => .cmd32 (encodeCmd .sbox1)
  | .mix0 => .cmd32 (encodeCmd .mix0)
  | .mix1 => .cmd32 (encodeCmd .mix1)
  | .f0 => .cmd32 (encodeCmd .f0)
  | .f1 => .cmd32 (encodeCmd .f1)
  | .sigma => .cmd32 (encodeCmd .sigma)
  | .ksexp => .cmd32 (encodeCmd .ksexp)
  | .setkey => .cmd32 (encodeCmd .setkey)
  | .gfnf => .cmd32 (encodeCmd .gfnf)
  | .gfni => .cmd32 (encodeCmd .gfni)
  | .enc => .cmd32 (encodeCmd .enc)
  | .dec => .cmd32 (encodeCmd .dec)
  | .hinit => .cmd32 (encodeCmd .hinit)
  | .hblk => .cmd32 (encodeCmd .hblk)
  | .srst => .cmd32 (encodeCmd .srst)
  | .rd addr => .hostbus (encodeBus false addr 0)
  | .wr addr data => .hostbus (encodeBus true addr data)

/-- The code word that a row of spec/opcode_table.json of `nbits` bits and value `w` stands for: 32 bits
or fewer are a CMD32 word, more are a HOSTBUS word of 41 bits (48 in whole bytes). -/
def codeWordOfTable (nbits w : Nat) : Option CodeWord :=
  if nbits ≤ 32 then
    if w < 2 ^ 32 then some (.cmd32 (BitVec.ofNat 32 w)) else none
  else
    if w < 2 ^ 41 then some (.hostbus (BitVec.ofNat 41 w)) else none

/-- The instruction the decoder reads from a table row's bits. -/
def decodeTableWord (nbits w : Nat) : Option Instr :=
  match codeWordOfTable nbits w with
  | some c =>
    match decode c with
    | .ok i => some i
    | .bad _ => none
  | none => none

end Sys2Proof
end

