-- ==== Sys2Proof/Machine/State.lean ====
section
/-! DEFINITION. The state of the machine as plain data, its reset value, and the reasons a step can
stop (10_state.md R20–R41; 70_reset_and_hazards.md R240). -/

namespace Sys2Proof.Machine

/-- The input pins in one clock cycle (00_scope.md R9). -/
structure Pins where
  /-- Synchronous active-high reset. -/
  rst : Bool
  /-- A register transaction is presented in this cycle. -/
  sel : Bool
  /-- 1 = write, 0 = read. -/
  we : Bool
  addr : BitVec 8
  wdata : Word
deriving DecidableEq, Repr

/-- What the world outside presents next: one cycle's input pins, or the host's polling line `wait`,
which reads STATUS until the value read has bit 0 = 0 (30_encoding.md R88). -/
inductive HostLine where
  | cycle (pins : Pins)
  | poll
deriving DecidableEq, Repr

/-- No architectural event of this core stops the machine: there is no trap and nothing hangs
(60_exceptions.md R217; 93_implementation_defined.md). So no fault is ever raised, which is exact
(neither safe nor unsafe). -/
inductive Fault
deriving DecidableEq, Repr

/-- The reasons for which the model has no answer. -/
inductive Refusal where
  /-- Raised by an arm of `exec` for an instruction with no meaning yet, by its mnemonic. Safe: the
  machine stops. No arm raises it. -/
  | notModelled (mnemonic : String)
deriving DecidableEq, Repr

/-- The state: the record of 10_state.md R41, and below it the model's own four fields. -/
structure State where
  /-- CMD (R25). -/
  cmd : Word
  /-- STATUS.BUSY, DONE, KEYV, ERR_ILL, ERR_NOKEY, ERR_BUSY (R26). -/
  busy : Bool
  done : Bool
  keyv : Bool
  errIll : Bool
  errNoKey : Bool
  errBusy : Bool
  /-- IRQEN.DONE_IE and ERR_IE (R27). -/
  doneIE : Bool
  errIE : Bool
  /-- KEY0–3, DIN0–3, DOUT0–3, HST0–3 (R28–R31). -/
  key : Block
  din : Block
  dout : Block
  hst : Block
  /-- OPA, OPB, RES (R32, R33). -/
  opa : Word
  opb : Word
  res : Word
  /-- WK0–3, KSL0–3, RK0–35 (R34–R36). -/
  wk : Block
  ksl : Block
  rk : Vector Word 36
  /-- PEND, the opcode of the running command; meaningless while BUSY = 0 (R39). -/
  pend : Opcode
  /-- Model's own: what is left of the running command's latency, in steps (00_scope.md R11; log 1). -/
  lat : Nat
  /-- Model's own: the output port `rdata`, as the last read transaction left it (R9; log 4). -/
  rdata : Word
  /-- Model's own: what the Host and the `rst` pin will present, first to last (log 6). -/
  host : List HostLine
  /-- Model's own: how many free values have been drawn (log 2). -/
  draws : Nat
deriving DecidableEq, Repr

/-- The reset state of 70_reset_and_hazards.md R240: every register of the spec is 0. `pend`, `lat`,
`rdata` and `draws` are DESIGN CHOICE (logs 1, 2, 4, 5), and nothing is presented. -/
def State.reset : State where
  cmd := 0
  busy := false
  done := false
  keyv := false
  errIll := false
  errNoKey := false
  errBusy := false
  doneIE := false
  errIE := false
  key := .zero
  din := .zero
  dout := .zero
  hst := .zero
  opa := 0
  opb := 0
  res := 0
  wk := .zero
  ksl := .zero
  rk := .replicate 36 0
  pend := .nop
  lat := 0
  rdata := 0
  host := []
  draws := 0

end Sys2Proof.Machine
end

