-- ==== Sys2Proof/Machine/Flags.lean ====
section
/-! DEFINITION. The STATUS and IRQEN registers as words, their writes, and the interrupt output
(10_state.md R26, R27; 20_memory.md R61, R62; 60_exceptions.md R214). The core has no condition
codes (10_state.md R40). -/

namespace Sys2Proof.Machine

/-- STATUS as read: `zext_32(errBusy‖errNoKey‖errIll‖keyv‖done‖busy)` (20_memory.md R61). -/
def statusWord (s : State) : Word :=
  (BitVec.ofBool s.errBusy ++ (BitVec.ofBool s.errNoKey ++ (BitVec.ofBool s.errIll ++
    (BitVec.ofBool s.keyv ++ (BitVec.ofBool s.done ++ BitVec.ofBool s.busy))))).setWidth 32

/-- IRQEN as read: `zext_32(errIE‖doneIE)` (20_memory.md R61). -/
def irqenWord (s : State) : Word := (BitVec.ofBool s.errIE ++ BitVec.ofBool s.doneIE).setWidth 32

/-- A host write to STATUS: clears each write-1-to-clear bit whose datum bit is 1 and changes nothing
else, BUSY or not (10_state.md R26; 20_memory.md R62). -/
def writeStatus (v : Word) (s : State) : State :=
  { s with
    done := s.done && !v.getLsbD 1
    errIll := s.errIll && !v.getLsbD 3
    errNoKey := s.errNoKey && !v.getLsbD 4
    errBusy := s.errBusy && !v.getLsbD 5 }

/-- A host write to IRQEN, BUSY or not (10_state.md R27). -/
def writeIrqen (v : Word) (s : State) : State :=
  { s with doneIE := v.getLsbD 0, errIE := v.getLsbD 1 }

/-- The level output `irq` (60_exceptions.md R214). -/
def irq (s : State) : Bool :=
  (s.done && s.doneIE) || ((s.errIll || s.errNoKey || s.errBusy) && s.errIE)

end Sys2Proof.Machine
end

