-- ==== Sys2Proof/Machine/Operands.lean ====
section
/-! DEFINITION. The byte, word and block views of 00_scope.md R14 and the operand forms of
30_encoding.md R85. -/

namespace Sys2Proof

/-- Word `j` of a block (00_scope.md R14). -/
def Block.word (x : Block) (j : Fin 4) : Word :=
  match j with
  | 0 => x.w0
  | 1 => x.w1
  | 2 => x.w2
  | 3 => x.w3

/-- A block with word `j` replaced: the effect of a host write to one of its four registers. -/
def Block.setWord (x : Block) (j : Fin 4) (v : Word) : Block :=
  match j with
  | 0 => { x with w0 := v }
  | 1 => { x with w1 := v }
  | 2 => { x with w2 := v }
  | 3 => { x with w3 := v }

/-- The 128-bit view `X = W0 ‖ W1 ‖ W2 ‖ W3` (00_scope.md R14). -/
def Block.bits (x : Block) : BitVec 128 := x.w0 ++ (x.w1 ++ (x.w2 ++ x.w3))

/-- The block of a 128-bit value. -/
def Block.ofBits (v : BitVec 128) : Block :=
  ⟨v.extractLsb' 96 32, v.extractLsb' 64 32, v.extractLsb' 32 32, v.extractLsb' 0 32⟩

end Sys2Proof

namespace Sys2Proof.Machine

/-- `bytes(W) = (W[31:24], W[23:16], W[15:8], W[7:0])`: byte `i` of a word, counted from the most
significant one (00_scope.md R14). -/
def byteOf (w : Word) (i : Nat) : Byte := w.extractLsb' (8 * (3 - i)) 8

/-- `word(b0, b1, b2, b3) = b0 ‖ b1 ‖ b2 ‖ b3` (00_scope.md R14). -/
def wordOf (b0 b1 b2 b3 : Byte) : Word := b0 ++ (b1 ++ (b2 ++ b3))

/-- `load_be`: the words of the 16-byte string `B[0] … B[15]`, `Wj = B[4j] ‖ … ‖ B[4j+3]`
(00_scope.md R14; 20_memory.md R63). Bytes missing at the end of a shorter list count as 0. -/
def loadBe (b : List Byte) : Block :=
  let at' := fun i => b.getD i 0
  ⟨wordOf (at' 0) (at' 1) (at' 2) (at' 3), wordOf (at' 4) (at' 5) (at' 6) (at' 7),
   wordOf (at' 8) (at' 9) (at' 10) (at' 11), wordOf (at' 12) (at' 13) (at' 14) (at' 15)⟩

/-- `store_be`: the 16 bytes of a block, `B[4j]` the most significant byte of `Wj`
(00_scope.md R14). -/
def storeBe (x : Block) : List Byte :=
  [byteOf x.w0 0, byteOf x.w0 1, byteOf x.w0 2, byteOf x.w0 3,
   byteOf x.w1 0, byteOf x.w1 1, byteOf x.w1 2, byteOf x.w1 3,
   byteOf x.w2 0, byteOf x.w2 1, byteOf x.w2 2, byteOf x.w2 3,
   byteOf x.w3 0, byteOf x.w3 1, byteOf x.w3 2, byteOf x.w3 3]

/-- The byte operand of a register: its bits 7:0; bits 31:8 are ignored (30_encoding.md R85). -/
def byteOperand (r : Word) : Byte := r.extractLsb' 0 8

/-- A byte-valued result in RES: zero-extended (10_state.md R33). -/
def byteResult (b : Byte) : Word := b.setWidth 32

/-- The context operand RK0–35 as the datapath indexes it: `RK[i]` (30_encoding.md R85). Every use
has `i ≤ 35`. -/
def roundKey (rk : Vector Word 36) (i : Nat) : Word := rk.toList.getD i 0

end Sys2Proof.Machine
end

