-- ==== Sys2Proof/Machine/Registers.lean ====
section
/-! DEFINITION. The register map (10_state.md R21, R22), the stored value of each register
(20_memory.md R61) and the write sets of the commands (20_memory.md R66). -/

namespace Sys2Proof

/-- The word index of a register (10_state.md R21; `addr(<reg>)` of 30_encoding.md R87). -/
def Reg.addr (r : Reg) : BitVec 8 :=
  match r with
  | .ident => 0x00
  | .cmd => 0x01
  | .status => 0x02
  | .irqen => 0x03
  | .key j => BitVec.ofNat 8 (0x08 + j)
  | .din j => BitVec.ofNat 8 (0x0C + j)
  | .dout j => BitVec.ofNat 8 (0x10 + j)
  | .hst j => BitVec.ofNat 8 (0x14 + j)
  | .opa => 0x18
  | .opb => 0x19
  | .res => 0x1A
  | .wk j => BitVec.ofNat 8 (0x20 + j)
  | .ksl j => BitVec.ofNat 8 (0x24 + j)
  | .rk i => BitVec.ofNat 8 (0x40 + i)

end Sys2Proof

namespace Sys2Proof.Machine

/-- ID: the ASCII string "NSU1", hard-wired (10_state.md R22). -/
def idWord : Word := 0x4E535531

/-- The register at a word index, or none where the index is reserved (10_state.md R21;
20_memory.md R60). -/
def regAt (a : BitVec 8) : Option Reg :=
  let n := a.toNat
  if n = 0x00 then some .ident
  else if n = 0x01 then some .cmd
  else if n = 0x02 then some .status
  else if n = 0x03 then some .irqen
  else if n < 0x08 then none
  else if n < 0x0C then some (.key (Fin.ofNat 4 (n - 0x08)))
  else if n < 0x10 then some (.din (Fin.ofNat 4 (n - 0x0C)))
  else if n < 0x14 then some (.dout (Fin.ofNat 4 (n - 0x10)))
  else if n < 0x18 then some (.hst (Fin.ofNat 4 (n - 0x14)))
  else if n = 0x18 then some .opa
  else if n = 0x19 then some .opb
  else if n = 0x1A then some .res
  else if n < 0x20 then none
  else if n < 0x24 then some (.wk (Fin.ofNat 4 (n - 0x20)))
  else if n < 0x28 then some (.ksl (Fin.ofNat 4 (n - 0x24)))
  else if n < 0x40 then none
  else if n < 0x64 then some (.rk (Fin.ofNat 36 (n - 0x40)))
  else none

/-- The value a register holds (20_memory.md R61, less the BUSY window). -/
def regValue (s : State) (r : Reg) : Word :=
  match r with
  | .ident => idWord
  | .cmd => s.cmd
  | .status => statusWord s
  | .irqen => irqenWord s
  | .key j => s.key.word j
  | .din j => s.din.word j
  | .dout j => s.dout.word j
  | .hst j => s.hst.word j
  | .opa => s.opa
  | .opb => s.opb
  | .res => s.res
  | .wk j => s.wk.word j
  | .ksl j => s.ksl.word j
  | .rk i => roundKey s.rk i

/-- The write set: whether the register is in `W(op)` (20_memory.md R66). SRST has no Complete step and
no write set. -/
def writes (op : Opcode) (r : Reg) : Bool :=
  match op with
  | .nop | .srst => false
  | .gfmul | .sbox0 | .sbox1 | .mix0 | .mix1 | .f0 | .f1 =>
    match r with
    | .res => true
    | _ => false
  | .sigma | .ksexp | .gfnf | .gfni | .enc | .dec =>
    match r with
    | .dout _ => true
    | _ => false
  | .setkey =>
    match r with
    | .wk _ | .ksl _ | .rk _ => true
    | _ => false
  | .hinit =>
    match r with
    | .hst _ => true
    | _ => false
  | .hblk =>
    match r with
    | .key _ | .wk _ | .ksl _ | .rk _ | .hst _ | .dout _ => true
    | _ => false

end Sys2Proof.Machine
end

