-- ==== Sys2Proof/Machine/Ops.lean ====
section
/-! DEFINITION. The shared operations: raising an error, reset, issue and acceptance of a command, the
Complete step, reads and writes of the register space, and what a step adds around an instruction
(20_memory.md, 30_encoding.md R84, 46_control.md, 60_exceptions.md, 70_reset_and_hazards.md). -/

namespace Sys2Proof.Machine

/-- The error causes of 60_exceptions.md; their cause codes are STATUS bit numbers. -/
inductive ErrorCause where
  | illegal | noKey | busy
deriving DecidableEq, Repr

/-- The cause code of an error: the bit number of its STATUS field (60_exceptions.md R210–R212). -/
def ErrorCause.code : ErrorCause → Nat
  | .illegal => 3
  | .noKey => 4
  | .busy => 5

/-- `raise <Error>`: sets the sticky STATUS bit and nothing else; it is no trap and nothing transfers
control (00_scope.md R15; 60_exceptions.md R215, R217). -/
def raiseError (c : ErrorCause) (s : State) : State :=
  match c with
  | .illegal => { s with errIll := true }
  | .noKey => { s with errNoKey := true }
  | .busy => { s with errBusy := true }

/-- `reset_all()`: every register and hidden state takes its reset value (46_control.md R191;
70_reset_and_hazards.md R240). What the outside will present, the output port and the counter of
free values are no state of the core and stay. -/
def resetAll (s : State) : State :=
  { State.reset with rdata := s.rdata, host := s.host, draws := s.draws }

/-- The commands that need KEYV = 1 at issue (30_encoding.md R82, R84). -/
def needsKey (op : Opcode) : Bool :=
  op == .gfnf || op == .gfni || op == .enc || op == .dec

/-- The commands that rebuild the context: KEYV is 0 from acceptance on (30_encoding.md R84). -/
def rebuildsContext (op : Opcode) : Bool := op == .setkey || op == .hblk

/-- Acceptance of a command (30_encoding.md R84): PEND and BUSY are set, and KEYV is cleared where the
context is under rebuild. The latency is drawn here (00_scope.md R11). -/
def accept (op : Opcode) (s : State) : State :=
  { s with
    keyv := s.keyv && !rebuildsContext op
    pend := op
    busy := true
    lat := Config.latency op s.draws + 1
    draws := s.draws + 1 }

/-- `issue(v)`: a host write of `v` to CMD, the conditions tested in the order of
30_encoding.md R84. -/
def issue (v : Word) (s : State) : State :=
  if s.busy then
    if v = encodeCmd .srst then resetAll s else raiseError .busy s
  else
    let s1 : State := { s with cmd := v, done := false }
    match decodeCmd v with
    | .bad _ => raiseError .illegal s1
    | .ok op =>
      if op = .srst then resetAll s1
      else if needsKey op && !s.keyv then raiseError .noKey s1
      else accept op s1

/-- The Complete step of a running command is the next step: it is BUSY and its latency is over. -/
def completing (s : State) : Bool := s.busy && s.lat == 0

/-- What every Complete step does after the command's own pseudocode: `busy <- 0; done <- 1`
(46_control.md R195). -/
def finish (s : State) : State := { s with busy := false, done := true }

/-- A command at one of its two moments (log 8). Where its Complete step is due, it performs its
pseudocode `effect` and finishes (46_control.md R195). Otherwise the host issues it: one host write of
its word to CMD (30_encoding.md R84). -/
def command (op : Opcode) (effect : State → State) (s : State) : Host.Outcome State Fault Refusal :=
  if completing s && s.pend == op then .next (finish (effect s)) else .next (issue (encodeCmd op) s)

/-- `MemRead(a, 4)`: the value returned and the state after it (20_memory.md R61, R66). A read changes
no state; only the counter of free values moves, where BUSYREAD is drawn. -/
def memRead (a : BitVec 8) (s : State) : Word × State :=
  match regAt a with
  | none => (0, s)
  | some r =>
    if s.busy && writes s.pend r then (Config.busyRead s.draws, { s with draws := s.draws + 1 })
    else (regValue s r, s)

/-- A host write to an input register: dropped with ERR_BUSY while BUSY = 1 (20_memory.md R62). -/
def writeInput (update : State → State) (s : State) : State :=
  if s.busy then raiseError .busy s else update s

/-- `MemWrite(a, 4, v)` (20_memory.md R62): read-only and reserved indices are ignored. -/
def memWrite (a : BitVec 8) (v : Word) (s : State) : State :=
  match regAt a with
  | some .cmd => issue v s
  | some .status => writeStatus v s
  | some .irqen => writeIrqen v s
  | some (.key j) => writeInput (fun t => { t with key := t.key.setWord j v, keyv := false }) s
  | some (.din j) => writeInput (fun t => { t with din := t.din.setWord j v }) s
  | some (.hst j) => writeInput (fun t => { t with hst := t.hst.setWord j v }) s
  | some .opa => writeInput (fun t => { t with opa := v }) s
  | some .opb => writeInput (fun t => { t with opb := v }) s
  | some .ident => s
  | some (.dout _) => s
  | some .res => s
  | some (.wk _) => s
  | some (.ksl _) => s
  | some (.rk _) => s
  | none => s

/-- One step of the world outside passes: what is left of a running command's latency goes down by one
(00_scope.md R11, R12; log 1). -/
def tick (s : State) : State := { s with lat := if s.busy then s.lat - 1 else s.lat }

/-- Apply a function to the state of an outcome that goes on. -/
def mapNext (f : State → State) (o : Host.Outcome State Fault Refusal) :
    Host.Outcome State Fault Refusal :=
  match o with
  | .next s => .next (f s)
  | .fault r => .fault r
  | .refused r => .refused r

end Sys2Proof.Machine
end

