-- ==== Sys2Proof/Machine/Bus.lean ====
section
/-! DEFINITION. Who moves next, and what the world outside presents (00_scope.md R8, R9, R12;
20_memory.md R69; 70_reset_and_hazards.md R241). -/

namespace Sys2Proof.Machine

/-- The 41 bus bits `we ‖ addr ‖ wdata` of a transaction (spec/opcode_table.json, format HOSTBUS). -/
def Pins.word (p : Pins) : BitVec 41 := encodeBus p.we p.addr p.wdata

/-- The pins that present a bus word as a transaction. -/
def Pins.present (w : BitVec 41) : Pins where
  rst := false
  sel := true
  we := w.getLsbD 40
  addr := w.extractLsb' 32 8
  wdata := w.extractLsb' 0 32

/-- The pins that issue a command word: a write of it to CMD (30_encoding.md R80). -/
def Pins.issue (v : Word) : Pins where
  rst := false
  sel := true
  we := true
  addr := Reg.cmd.addr
  wdata := v

/-- The pins that present an encoded instruction. -/
def Pins.ofCode (c : CodeWord) : Pins :=
  match c with
  | .cmd32 v => Pins.issue v
  | .hostbus w => Pins.present w

/-- A cycle with `rst = 1` (70_reset_and_hazards.md R241): the reset state; any transaction presented is
ignored, and `rdata` is unspecified. -/
def resetCycle (s : State) : State :=
  { resetAll s with rdata := Config.rstRdata s.draws, draws := s.draws + 1 }

/-- The kinds of step. -/
inductive Move where
  /-- The Core's Complete step of this command. -/
  | complete (op : Opcode)
  /-- The Host's transaction, taken in this state; `line` is the line that presented it. -/
  | transaction (i : Instr) (s : State) (line : HostLine)
  /-- A step that runs no instruction (an idle cycle, or a reset cycle), and the state after it. -/
  | quiet (s : State)
deriving DecidableEq, Repr

/-- The next step. A due Complete step comes first; otherwise the next host line is taken from the list
and does what its pins say (`rst` before any transaction). With nothing presented the cycle is
idle. -/
def nextMove (s : State) : Move :=
  if completing s then .complete s.pend
  else
    match s.host with
    | [] => .quiet (tick s)
    | .poll :: rest => .transaction (.rd Reg.status.addr) { s with host := rest } .poll
    | .cycle p :: rest =>
      let t : State := { s with host := rest }
      if p.rst then .quiet (resetCycle t)
      else if p.sel then .transaction (decodeBus p.word) t (.cycle p)
      else .quiet (tick t)

/-- What follows a transaction: time passes, and a `wait` line whose read returned bit 0 = 1 is
presented again (30_encoding.md R88). -/
def retire (line : HostLine) (s : State) : State :=
  match line with
  | .cycle _ => tick s
  | .poll => if s.rdata.getLsbD 0 then tick { s with host := .poll :: s.host } else tick s

/-- Pins put in front of what the host will present, so that the very next step takes them: a Complete
step that is already due is put off by one step, as LAT allows. -/
def presentNext (p : Pins) (s : State) : State :=
  { s with
    host := .cycle p :: s.host
    lat := if completing s then 1 else s.lat }

end Sys2Proof.Machine
end

