-- ==== Sys2Proof/Machine/Control.lean ====
section
/-! DEFINITION. NOP, SRST and the two host transactions (46_control.md). -/

namespace Sys2Proof.Machine

/-- NOP at Complete: nothing (46_control.md R190). -/
def execNop (s : State) : Host.Outcome State Fault Refusal := command .nop (fun t => t) s

/-- SRST: acts at issue, BUSY or not (46_control.md R191). -/
def execSrst (s : State) : Host.Outcome State Fault Refusal := .next (resetAll s)

/-- `rd`: the value of MemRead on the port `rdata` (46_control.md R193). -/
def execRd (addr : BitVec 8) (s : State) : Host.Outcome State Fault Refusal :=
  .next { (memRead addr s).2 with rdata := (memRead addr s).1 }

/-- `wr`: MemWrite (46_control.md R194). -/
def execWr (addr : BitVec 8) (data : Word) (s : State) : Host.Outcome State Fault Refusal :=
  .next (memWrite addr data s)

end Sys2Proof.Machine
end

