-- ==== Sys2Proof/Machine/Field.lean ====
section
/-! DEFINITION. GF(2^8) field arithmetic: the multiplier and the command GFMUL (40_field.md). -/

namespace Sys2Proof.Machine

/-- Multiplication by x: a one-bit left shift, with 0x1D added in where bit 7 was shifted out
(40_field.md R100; 90_conflicts.md C9). -/
def timesX (a : Byte) : Byte := if a.getLsbD 7 then (a <<< 1) ^^^ 0x1D else a <<< 1

/-- The last `n` iterations of the loop of 40_field.md R100, from `p`, `a` and `b`. -/
def gfmulLoop : Nat → Byte → Byte → Byte → Byte
  | 0, p, _, _ => p
  | n + 1, p, a, b => gfmulLoop n (if b.getLsbD 0 then p ^^^ a else p) (timesX a) (b >>> 1)

/-- `GFmul(a, b)`: the product in GF(2^8) modulo 0x11D, by 8 iterations of shift-and-add
(40_field.md R100). -/
def gfmul (a b : Byte) : Byte := gfmulLoop 8 0 a b

/-- GFMUL at Complete: `RES <- zext_32(GFmul(OPA[7:0], OPB[7:0]))` (40_field.md R101). -/
def execGfmul (s : State) : Host.Outcome State Fault Refusal :=
  command .gfmul
    (fun t => { t with res := byteResult (gfmul (byteOperand t.opa) (byteOperand t.opb)) }) s

end Sys2Proof.Machine
end

