-- ==== Sys2Proof/Machine/Sbox.lean ====
section
/-! DEFINITION. The substitution tables and the commands SBOX0 and SBOX1 (41_sbox.md; the tables are the
spec's normative ones, log 9). -/

namespace Sys2Proof.Machine

/-- Table S0 (41_sbox.md R110): row `h` holds `S0[h0] … S0[hF]`, the first entry most significant. -/
def s0Rows : List (BitVec 128) :=
  [0x5749D1C62F3374FB956D82EA0EB0A81C#128,
   0x28D04B925CEE85B1C40A763D63F917AF#128,
   0xBFA11965F77A322006CEE4839D5B4CD8#128,
   0x425D2EE8D49B0F133C8967C071AAB6F5#128,
   0xA4BEFD8C120097DA78E1CF6B39435526#128,
   0x3098CCDDEB54B38F4E16FA22A5770961#128,
   0xD62A533745C16CAEEF7008998B1DF2B4#128,
   0xE9C79F4A3125FE7CD3A2BD561488600B#128,
   0xCDE234509EDC11052BB7A948FF668A73#128,
   0x037586F16AA740C2B92CDB1F58943EED#128,
   0xFC1BA004B88DE6596293357ECA21DF47#128,
   0x15F3BA7FA669C84D873B9C01E0DE2452#128,
   0x7B0C681E80B25AE7ADD523F4463F91C9#128,
   0x6E8472BB0D18D996F05F41AC27C5E33A#128,
   0x816F07A379F62D381A445EB5D2ECCB90#128,
   0x9A36E529C34FAB6451F810D7BC027D8E#128]

/-- Table S1 (41_sbox.md R111), laid out as `s0Rows`. -/
def s1Rows : List (BitVec 128) :=
  [0x6CDAC3E94E9D0A3DB836B43813340CD9#128,
   0xBF74948FB79CE5DC9E07494F982CB093#128,
   0x12EBCDB392E74160E321273BE619D20E#128,
   0x9111C73F2A8EA1BC2BC8C50F5BF3878B#128,
   0xFBF5DE20C6A784CED86551C9A4EF4353#128,
   0x255D9B31E83E0DD780FF698ABA0B735C#128,
   0x6E541562F6353052A316D32832FAAA5E#128,
   0xCFEAED783358097B63C0C1461EDFA999#128,
   0x5504C486397782EC4018909759DD831F#128,
   0x9A370624647CA556480885D06126CA6F#128,
   0x7E6AB671A07005D1458C231CF0EE89AD#128,
   0x7A4BC22FDB5A4D7667172DF4CBB14AA8#128,
   0xB522473AD5104C72CC00F9E0FDE2FEAE#128,
   0xF85FABF11B4281D6BE4429A657B9AFF2#128,
   0xD47566BB689F5002013C7F8D1A88BDAC#128,
   0xF7E47996A2FC6DB26B03E12E7D14951D#128]

/-- The entry of a table in row `x[7:4]` and column `x[3:0]`. -/
def tableEntry (rows : List (BitVec 128)) (x : Byte) : Byte :=
  (rows.getD (x.toNat / 16) 0).extractLsb' (8 * (15 - x.toNat % 16)) 8

/-- `S0[x]`, the source's table-1 (41_sbox.md R110). -/
def sbox0 (x : Byte) : Byte := tableEntry s0Rows x

/-- `S1[x]`, the source's table-2 (41_sbox.md R111). -/
def sbox1 (x : Byte) : Byte := tableEntry s1Rows x

/-- The 4-bit tables SS0–SS3 of 41_sbox.md R110. -/
def ssTables : List (List (BitVec 4)) :=
  [[0xE, 0x6, 0xC, 0xA, 0x8, 0x7, 0x2, 0xF, 0xB, 0x1, 0x4, 0x0, 0x5, 0x9, 0xD, 0x3],
   [0x6, 0x4, 0x0, 0xD, 0x2, 0xB, 0xA, 0x3, 0x9, 0xC, 0xE, 0xF, 0x8, 0x7, 0x5, 0x1],
   [0xB, 0x8, 0x5, 0xE, 0xA, 0x6, 0x4, 0xC, 0xF, 0x7, 0x2, 0x3, 0x1, 0x0, 0xD, 0x9],
   [0xA, 0x2, 0x6, 0xD, 0x3, 0x4, 0x5, 0xE, 0x0, 0x7, 0x8, 0x9, 0xB, 0xF, 0xC, 0x1]]

/-- Entry `t` of the 4-bit table `SSk`. -/
def ss (k : Nat) (t : BitVec 4) : BitVec 4 := (ssTables.getD k []).getD t.toNat 0

/-- `mul2_4`: multiplication by x in GF(2^4) under x^4+x+1 (41_sbox.md R110). -/
def mul2nibble (t : BitVec 4) : BitVec 4 := if t.getLsbD 3 then (t <<< 1) ^^^ 0x3 else t <<< 1

/-- The construction of S0 from the 4-bit tables (41_sbox.md R110, "an equivalent definition"). No
command uses it; it is the spec's cross-check of the table. -/
def sbox0Built (x : Byte) : Byte :=
  let t0 := ss 0 (x.extractLsb' 4 4)
  let t1 := ss 1 (x.extractLsb' 0 4)
  ss 2 (t0 ^^^ mul2nibble t1) ++ ss 3 (mul2nibble t0 ^^^ t1)

/-- SBOX0 at Complete: `RES <- zext_32(S0[OPA[7:0]])` (41_sbox.md R112). -/
def execSbox0 (s : State) : Host.Outcome State Fault Refusal :=
  command .sbox0 (fun t => { t with res := byteResult (sbox0 (byteOperand t.opa)) }) s

/-- SBOX1 at Complete: `RES <- zext_32(S1[OPA[7:0]])` (41_sbox.md R113). -/
def execSbox1 (s : State) : Host.Outcome State Fault Refusal :=
  command .sbox1 (fun t => { t with res := byteResult (sbox1 (byteOperand t.opa)) }) s

end Sys2Proof.Machine
end

