-- ==== Sys2Proof/Machine/Round.lean ====
section
/-! DEFINITION. The diffusion matrices, the round functions and the commands MIX0, MIX1, F0 and F1
(42_round.md). -/

namespace Sys2Proof.Machine

/-- The rows of M0 (42_round.md R120). -/
def m0 : List (List Byte) :=
  [[0x01, 0x02, 0x04, 0x06], [0x02, 0x01, 0x06, 0x04], [0x04, 0x06, 0x01, 0x02], [0x06, 0x04, 0x02, 0x01]]

/-- The rows of M1 (42_round.md R120). -/
def m1 : List (List Byte) :=
  [[0x01, 0x08, 0x02, 0x0A], [0x08, 0x01, 0x0A, 0x02], [0x02, 0x0A, 0x01, 0x08], [0x0A, 0x02, 0x08, 0x01]]

/-- The matrix entry `M[r][c]`. -/
def matrixEntry (m : List (List Byte)) (r c : Nat) : Byte := (m.getD r []).getD c 0

/-- Row `r` of the product: `y_r` of 42_round.md R121. -/
def mixRow (m : List (List Byte)) (r : Nat) (w : Word) : Byte :=
  gfmul (matrixEntry m r 0) (byteOf w 0) ^^^ gfmul (matrixEntry m r 1) (byteOf w 1) ^^^
    gfmul (matrixEntry m r 2) (byteOf w 2) ^^^ gfmul (matrixEntry m r 3) (byteOf w 3)

/-- `MixM(M, w)`: the matrix-vector product over GF(2^8), most significant byte first
(42_round.md R121). -/
def mixM (m : List (List Byte)) (w : Word) : Word :=
  wordOf (mixRow m 0 w) (mixRow m 1 w) (mixRow m 2 w) (mixRow m 3 w)

/-- `F0(rk, x)`, variant A: tables S0, S1, S0, S1, then M0 (42_round.md R122). -/
def roundF0 (rk x : Word) : Word :=
  let t := rk ^^^ x
  mixM m0 (wordOf (sbox0 (byteOf t 0)) (sbox1 (byteOf t 1)) (sbox0 (byteOf t 2)) (sbox1 (byteOf t 3)))

/-- `F1(rk, x)`, variant B: tables S1, S0, S1, S0, then M1 (42_round.md R123). -/
def roundF1 (rk x : Word) : Word :=
  let t := rk ^^^ x
  mixM m1 (wordOf (sbox1 (byteOf t 0)) (sbox0 (byteOf t 1)) (sbox1 (byteOf t 2)) (sbox0 (byteOf t 3)))

/-- MIX0 at Complete: `RES <- MixM(M0, OPA)` (42_round.md R124). -/
def execMix0 (s : State) : Host.Outcome State Fault Refusal :=
  command .mix0 (fun t => { t with res := mixM m0 t.opa }) s

/-- MIX1 at Complete: `RES <- MixM(M1, OPA)` (42_round.md R125). -/
def execMix1 (s : State) : Host.Outcome State Fault Refusal :=
  command .mix1 (fun t => { t with res := mixM m1 t.opa }) s

/-- F0 at Complete: `RES <- F0(OPA, OPB)` (42_round.md R126). -/
def execF0 (s : State) : Host.Outcome State Fault Refusal :=
  command .f0 (fun t => { t with res := roundF0 t.opa t.opb }) s

/-- F1 at Complete: `RES <- F1(OPA, OPB)` (42_round.md R127). -/
def execF1 (s : State) : Host.Outcome State Fault Refusal :=
  command .f1 (fun t => { t with res := roundF1 t.opa t.opb }) s

end Sys2Proof.Machine
end

