-- ==== Sys2Proof/Machine/Feistel.lean ====
section
/-! DEFINITION. The generalized Feistel network, the block cipher and the commands GFNF, GFNI, ENC and DEC
(44_feistel_cipher.md). -/

namespace Sys2Proof.Machine

/-- One forward round with the key pair `(k0, k1)`: F0 on branch 0 into branch 1, F1 on branch 2 into
branch 3, then a left rotation of the branches (44_feistel_cipher.md R160). -/
def forwardRound (k0 k1 : Word) (t : Block) : Block :=
  ⟨t.w1 ^^^ roundF0 k0 t.w0, t.w2, t.w3 ^^^ roundF1 k1 t.w2, t.w0⟩

/-- One inverse round: the same two F steps, then a right rotation of the branches
(44_feistel_cipher.md R161). -/
def inverseRound (k0 k1 : Word) (t : Block) : Block :=
  ⟨t.w3 ^^^ roundF1 k1 t.w2, t.w0, t.w1 ^^^ roundF0 k0 t.w0, t.w2⟩

/-- Rounds `i`, `i+1`, …, `i+n-1` of the forward loop (44_feistel_cipher.md R160). -/
def forwardRounds (rk : Nat → Word) : Nat → Nat → Block → Block
  | 0, _, t => t
  | n + 1, i, t => forwardRounds rk n (i + 1) (forwardRound (rk (2 * i)) (rk (2 * i + 1)) t)

/-- Rounds `i`, …, `i+n-1` of the inverse loop of `r` rounds: round `i` uses the pair
`RK[2(r−1−i)]`, `RK[2(r−1−i)+1]` (44_feistel_cipher.md R161). -/
def inverseRounds (r : Nat) (rk : Nat → Word) : Nat → Nat → Block → Block
  | 0, _, t => t
  | n + 1, i, t =>
    inverseRounds r rk n (i + 1)
      (inverseRound (rk (2 * (r - 1 - i))) (rk (2 * (r - 1 - i) + 1)) t)

/-- `GFN4(r, RK, X)` with the final re-indexing `(T3, T0, T1, T2)` (44_feistel_cipher.md R160). -/
def gfn4 (r : Nat) (rk : Nat → Word) (x : Block) : Block :=
  let t := forwardRounds rk r 0 x
  ⟨t.w3, t.w0, t.w1, t.w2⟩

/-- `GFN4inv(r, RK, X)` with the final re-indexing `(T1, T2, T3, T0)` (44_feistel_cipher.md R161). -/
def gfn4inv (r : Nat) (rk : Nat → Word) (x : Block) : Block :=
  let t := inverseRounds r rk r 0 x
  ⟨t.w1, t.w2, t.w3, t.w0⟩

/-- The exclusive-or of two whitening words into branches 1 and 3 (44_feistel_cipher.md R163). -/
def whiten (a b : Word) (t : Block) : Block := { t with w1 := t.w1 ^^^ a, w3 := t.w3 ^^^ b }

/-- `Enc(WK, RK, P)` (44_feistel_cipher.md R163). -/
def enc (wk : Block) (rk : Nat → Word) (p : Block) : Block :=
  whiten wk.w2 wk.w3 (gfn4 18 rk (whiten wk.w0 wk.w1 p))

/-- `Dec(WK, RK, C)` (44_feistel_cipher.md R164). -/
def dec (wk : Block) (rk : Nat → Word) (c : Block) : Block :=
  whiten wk.w0 wk.w1 (gfn4inv 18 rk (whiten wk.w2 wk.w3 c))

/-- GFNF at Complete: `DOUT <- GFN4(18, RK, DIN)` (44_feistel_cipher.md R165). -/
def execGfnf (s : State) : Host.Outcome State Fault Refusal :=
  command .gfnf (fun t => { t with dout := gfn4 18 (roundKey t.rk) t.din }) s

/-- GFNI at Complete: `DOUT <- GFN4inv(18, RK, DIN)` (44_feistel_cipher.md R166). -/
def execGfni (s : State) : Host.Outcome State Fault Refusal :=
  command .gfni (fun t => { t with dout := gfn4inv 18 (roundKey t.rk) t.din }) s

/-- ENC at Complete: `DOUT <- Enc(WK, RK, DIN)` (44_feistel_cipher.md R167). -/
def execEnc (s : State) : Host.Outcome State Fault Refusal :=
  command .enc (fun t => { t with dout := enc t.wk (roundKey t.rk) t.din }) s

/-- DEC at Complete: `DOUT <- Dec(WK, RK, DIN)` (44_feistel_cipher.md R168). -/
def execDec (s : State) : Host.Outcome State Fault Refusal :=
  command .dec (fun t => { t with dout := dec t.wk (roundKey t.rk) t.din }) s

end Sys2Proof.Machine
end

