-- ==== Sys2Proof/Machine/KeySchedule.lean ====
section
/-! DEFINITION. The key schedule: the constants, the double-swap, the expander, the 9 extraction steps,
and the commands SIGMA, KSEXP and SETKEY (43_key_schedule.md). -/

namespace Sys2Proof.Machine

/-- The rows of the constant table, `CON[4j], …, CON[4j+3]` (43_key_schedule.md R140). -/
def conRows : List Block :=
  [⟨0xF56B7AEB, 0x994A8A42, 0x96A4BD75, 0xFA854521⟩,
   ⟨0x735B768A, 0x1F7ABAC4, 0xD5BC3B45, 0xB99D5D62⟩,
   ⟨0x52D73592, 0x3EF636E5, 0xC57A1AC9, 0xA95B9B72⟩,
   ⟨0x5AB42554, 0x369555ED, 0x1553BA9A, 0x7972B2A2⟩,
   ⟨0xE6B85D4D, 0x8A995951, 0x4B550696, 0x2774B4FC⟩,
   ⟨0xC9BB034B, 0xA59A5A7E, 0x88CC81A5, 0xE4ED2D3F⟩,
   ⟨0x7C6F68E2, 0x104E8ECB, 0xD2263471, 0xBE07C765⟩,
   ⟨0x511A3208, 0x3D3BFBE6, 0x1084B134, 0x7CA565A7⟩,
   ⟨0x304BF0AA, 0x5C6AAA87, 0xF4347855, 0x9815D543⟩,
   ⟨0x4213141A, 0x2E32F2F5, 0xCD180A0D, 0xA139F97A⟩,
   ⟨0x5E852D36, 0x32A464E9, 0xC353169B, 0xAF72B274⟩,
   ⟨0x8DB88B4D, 0xE199593A, 0x7ED56D96, 0x12F434C9⟩,
   ⟨0xD37B36CB, 0xBF5A9A64, 0x85AC9B65, 0xE98D4D32⟩,
   ⟨0x7ADF6582, 0x16FE3ECD, 0xD17E32C1, 0xBD5F9F66⟩,
   ⟨0x50B63150, 0x3C9757E7, 0x1052B098, 0x7C73B3A7⟩]

/-- `CON[n]`, `n ≤ 59` (43_key_schedule.md R140). -/
def con (n : Nat) : Word := (conRows.getD (n / 4) .zero).word (Fin.ofNat 4 n)

/-- Multiplication by x^-1 in GF(2^16) under 0x1A831 (43_key_schedule.md R141). -/
def divX16 (t : BitVec 16) : BitVec 16 := if t.getLsbD 0 then (t >>> 1) ^^^ 0xD418 else t >>> 1

/-- The generator of 43_key_schedule.md R141: the pairs `CON[2i]`, `CON[2i+1]` from the 16-bit seed `t`,
`n` pairs. No command uses it; it is the spec's cross-check of the table. -/
def conGenerated : Nat → BitVec 16 → List Word
  | 0, _ => []
  | n + 1, t =>
    ((t ^^^ 0xB7E1) ++ (~~~t).rotateLeft 1) :: ((~~~t ^^^ 0x243F) ++ t.rotateLeft 8) ::
      conGenerated n (divX16 t)

/-- `Sigma`, on 128 bits: `X[120:64] ‖ X[6:0] ‖ X[127:121] ‖ X[63:7]` (43_key_schedule.md R143). -/
def sigmaBits (x : BitVec 128) : BitVec 128 :=
  x.extractLsb' 64 57 ++ (x.extractLsb' 0 7 ++ (x.extractLsb' 121 7 ++ x.extractLsb' 7 57))

/-- The double-swap on a block (43_key_schedule.md R143). -/
def sigma (x : Block) : Block := Block.ofBits (sigmaBits x.bits)

/-- `KSX(X) = GFN4(12, CON[0..23], X)`, the expander (43_key_schedule.md R144). -/
def ksx (x : Block) : Block := gfn4 12 con x

/-- The four words that extraction step `i` appends: `L ⊕ CON[24+4i..27+4i]`, and `⊕ K` where `i` is odd
(43_key_schedule.md R146). -/
def extracted (k : Block) (i : Nat) (l : Block) : Block :=
  let t := l.xor ⟨con (24 + 4 * i), con (25 + 4 * i), con (26 + 4 * i), con (27 + 4 * i)⟩
  if i % 2 = 1 then t.xor k else t

/-- Extraction steps `i`, …, `i+n-1` from the value `l`: their round-key words in order
(43_key_schedule.md R146). -/
def extraction (k : Block) : Nat → Nat → Block → List Word
  | 0, _, _ => []
  | n + 1, i, l =>
    let t := extracted k i l
    t.w0 :: t.w1 :: t.w2 :: t.w3 :: extraction k n (i + 1) (sigma l)

theorem extraction_length (k : Block) (n i : Nat) (l : Block) :
    (extraction k n i l).length = 4 * n := by
  induction n generalizing i l with
  | zero => rfl
  | succ n ih => simp [extraction, ih]; omega

/-- The 36 round-key words of a key whose expander output is `l` (43_key_schedule.md R146). -/
def roundKeys (k l : Block) : Vector Word 36 :=
  ⟨(extraction k 9 0 l).toArray, by simp [extraction_length]⟩

/-- The cipher context: `(WK, RK, KSL) = KS(K)` written into the context registers
(43_key_schedule.md R146, R147). -/
def buildContext (k : Block) (s : State) : State :=
  let l := ksx k
  { s with wk := k, ksl := l, rk := roundKeys k l }

/-- SIGMA at Complete: `DOUT <- Sigma(DIN)` (43_key_schedule.md R148). -/
def execSigma (s : State) : Host.Outcome State Fault Refusal :=
  command .sigma (fun t => { t with dout := sigma t.din }) s

/-- KSEXP at Complete: `DOUT <- KSX(DIN)` (43_key_schedule.md R145). -/
def execKsexp (s : State) : Host.Outcome State Fault Refusal :=
  command .ksexp (fun t => { t with dout := ksx t.din }) s

/-- SETKEY at Complete: `(WK, RK, KSL) <- KS(KEY); keyv <- 1` (43_key_schedule.md R147). KEYV is cleared
at acceptance, by `accept`. -/
def execSetkey (s : State) : Host.Outcome State Fault Refusal :=
  command .setkey (fun t => { buildContext t.key t with keyv := true }) s

end Sys2Proof.Machine
end

