-- ==== Sys2Proof/Machine/Hash.lean ====
section
/-! DEFINITION. The Davies–Meyer compression and the commands HINIT and HBLK (45_hash.md). -/

namespace Sys2Proof.Machine

/-- `DM(H, M)`: the state encrypted under the key `M`, exclusive-ored with the state
(45_hash.md R182). -/
def daviesMeyer (h m : Block) : Block := (enc m (roundKey (roundKeys m (ksx m))) h).xor h

/-- HINIT at Complete: `HST <- 0` (45_hash.md R180). -/
def execHinit (s : State) : Host.Outcome State Fault Refusal :=
  command .hinit (fun t => { t with hst := .zero }) s

/-- The Complete pseudocode of HBLK, every right-hand side read before any register is written
(45_hash.md R181). -/
def compressBlock (s : State) : State :=
  let b := buildContext s.din s
  let h := (enc b.wk (roundKey b.rk) s.hst).xor s.hst
  { b with key := s.din, hst := h, dout := h, keyv := true }

/-- HBLK at Complete: the context of DIN is built, KEY takes DIN, and HST and DOUT take
`DM(HST, DIN)` (45_hash.md R181). -/
def execHblk (s : State) : Host.Outcome State Fault Refusal := command .hblk compressBlock s

end Sys2Proof.Machine
end

