-- ==== Sys2Proof/Machine/Dispatch.lean ====
section
/-! DEFINITION. The meaning of each instruction, one arm per constructor of Instr. -/

namespace Sys2Proof.Machine

def exec (i : Instr) (s : State) : Host.Outcome State Fault Refusal :=
  match i with
  | .nop => Sys2Proof.Machine.execNop s
  | .gfmul => Sys2Proof.Machine.execGfmul s
  | .sbox0 => Sys2Proof.Machine.execSbox0 s
  | .sbox1 => Sys2Proof.Machine.execSbox1 s
  | .mix0 => Sys2Proof.Machine.execMix0 s
  | .mix1 => Sys2Proof.Machine.execMix1 s
  | .f0 => Sys2Proof.Machine.execF0 s
  | .f1 => Sys2Proof.Machine.execF1 s
  | .sigma => Sys2Proof.Machine.execSigma s
  | .ksexp => Sys2Proof.Machine.execKsexp s
  | .setkey => Sys2Proof.Machine.execSetkey s
  | .gfnf => Sys2Proof.Machine.execGfnf s
  | .gfni => Sys2Proof.Machine.execGfni s
  | .enc => Sys2Proof.Machine.execEnc s
  | .dec => Sys2Proof.Machine.execDec s
  | .hinit => Sys2Proof.Machine.execHinit s
  | .hblk => Sys2Proof.Machine.execHblk s
  | .srst => Sys2Proof.Machine.execSrst s
  | .rd addr => Sys2Proof.Machine.execRd addr s
  | .wr addr data => Sys2Proof.Machine.execWr addr data s

end Sys2Proof.Machine
end

