-- ==== Sys2Proof/Machine/Step.lean ====
section
/-! DEFINITION. One step of the machine, and how the host's checks place an instruction. -/

namespace Sys2Proof.Machine

/-- One step: the Core's Complete step of the running command, or what the world outside presents. -/
def step (s : State) : Host.Outcome State Fault Refusal :=
  match nextMove s with
  | .complete op => exec op.instr s
  | .transaction i t line => mapNext (retire line) (exec i t)
  | .quiet t => .next t

/-- The state with an instruction's word presented in the next cycle: a HOSTBUS word on the bus, a CMD32
word as the datum of a write to CMD. Bits above the format's width are cut off. -/
def State.withFetchWord (s : State) (nbits w : Nat) : State :=
  presentNext
    (Pins.ofCode (if nbits ≤ 32 then .cmd32 (BitVec.ofNat 32 w) else .hostbus (BitVec.ofNat 41 w))) s

end Sys2Proof.Machine
end

