-- ==== Sys2Proof/Machine/HostProgram.lean ====
section
/-! DEFINITION. The host's side: the expansions of the host program lines (30_encoding.md R87, R88), the
padding and the hash loop (45_hash.md R183, R184). -/

namespace Sys2Proof

/-- Register `j` of a four-word register (30_encoding.md R88). -/
def Quad.reg (q : Quad) (j : Fin 4) : Reg :=
  match q with
  | .key => .key j
  | .din => .din j
  | .dout => .dout j
  | .hst => .hst j
  | .wk => .wk j
  | .ksl => .ksl j

end Sys2Proof

namespace Sys2Proof.Machine

/-- The cycle that presents an instruction. -/
def presents (i : Instr) : HostLine := .cycle (Pins.ofCode (encode i))

/-- The cycles and polls that a line stands for (30_encoding.md R87, R88). -/
def expandLine (l : Line) : List HostLine :=
  match l with
  | .wr r imm => [presents (.wr r.addr (BitVec.ofNat 32 imm))]
  | .rd r => [presents (.rd r.addr)]
  | .cmd op => [presents op.instr]
  | .wait => [.poll]
  | .run op => [presents op.instr, .poll]
  | .ldq q hex =>
    let x := Block.ofBits (BitVec.ofNat 128 hex)
    [presents (.wr (q.reg 0).addr (x.word 0)), presents (.wr (q.reg 1).addr (x.word 1)),
     presents (.wr (q.reg 2).addr (x.word 2)), presents (.wr (q.reg 3).addr (x.word 3))]
  | .rdq q =>
    [presents (.rd (q.reg 0).addr), presents (.rd (q.reg 1).addr),
     presents (.rd (q.reg 2).addr), presents (.rd (q.reg 3).addr)]
  | .clr => [presents (.wr Reg.status.addr 0x3A)]

/-- A host program as what the host presents. -/
def expandProgram (p : List Line) : List HostLine := p.flatMap expandLine

/-- `pad(m) = m ‖ 0x80 ‖ 0x00^z`, `z = 15 − (n mod 16)` (45_hash.md R183). -/
def pad (m : List Byte) : List Byte := m ++ 0x80 :: List.replicate (15 - m.length % 16) 0

/-- The first `n` 16-byte blocks of a byte string. -/
def blocksOf : Nat → List Byte → List Block
  | 0, _ => []
  | n + 1, b => loadBe (b.take 16) :: blocksOf n (b.drop 16)

/-- The blocks of a padded message, in order (45_hash.md R184). -/
def messageBlocks (m : List Byte) : List Block := blocksOf ((pad m).length / 16) (pad m)

/-- `hash(m)`: `H_0 = 0`, `H_{j+1} = DM(H_j, B_j)`, digest `store_be(H_N)` (45_hash.md R184). -/
def hash (m : List Byte) : List Byte := storeBe ((messageBlocks m).foldl daviesMeyer .zero)

/-- The host program that computes a hash (45_hash.md R184). -/
def hashProgram (m : List Byte) : List Line :=
  .run .hinit ::
    ((messageBlocks m).flatMap fun b => [.ldq .din b.bits.toNat, .run .hblk]) ++ [.rdq .hst]

end Sys2Proof.Machine
end

