-- ==== Sys2Proof/Safety.lean ====
section
/-! DEFINITION. The terms claims are stated in: what the host does in the next step, and the invariants of
the machine. -/

namespace Sys2Proof.Machine

/-- The next step takes this cycle's input pins. -/
def nextCycle (s : State) (p : Pins) : Prop := completing s = false ∧ s.host.head? = some (.cycle p)

/-- The next step is the host's write of `v` to word index `a`. -/
def nextWrites (s : State) (a : BitVec 8) (v : Word) : Prop :=
  ∃ p, nextCycle s p ∧ p.rst = false ∧ p.sel = true ∧ p.we = true ∧ p.addr = a ∧ p.wdata = v

/-- The next step resets the core: a cycle with `rst = 1`, or the SRST word written to CMD
(70_reset_and_hazards.md R241; 46_control.md R191). -/
def nextResets (s : State) : Prop :=
  (∃ p, nextCycle s p ∧ p.rst = true) ∨ nextWrites s 0x01 0x000000FF

/-- A host line that would reset the core. -/
def HostLine.resets (l : HostLine) : Bool :=
  match l with
  | .poll => false
  | .cycle p => p.rst || (p.sel && p.we && p.addr == 0x01 && p.wdata == 0x000000FF)

/-- The reserved indices (10_state.md R21). -/
def reservedIndex (a : BitVec 8) : Bool :=
  let n := a.toNat
  (0x04 ≤ n && n ≤ 0x07) || (0x1B ≤ n && n ≤ 0x1F) || (0x28 ≤ n && n ≤ 0x3F) || 0x64 ≤ n

/-- The indices of ID, DOUT, RES, WK, KSL and RK, read-only to the host (10_state.md R21). -/
def readOnlyIndex (a : BitVec 8) : Bool :=
  let n := a.toNat
  n == 0x00 || (0x10 ≤ n && n ≤ 0x13) || n == 0x1A || (0x20 ≤ n && n ≤ 0x27) || (0x40 ≤ n && n ≤ 0x63)

/-- The indices of the input registers KEY, DIN, HST, OPA and OPB (20_memory.md R62). -/
def inputIndex (a : BitVec 8) : Bool :=
  let n := a.toNat
  (0x08 ≤ n && n ≤ 0x0F) || (0x14 ≤ n && n ≤ 0x19)

/-- The 18 legal command words, as numbers (30_encoding.md R81, R82). -/
def legalWords : List Nat :=
  [0x00, 0x01, 0x02, 0x03, 0x04, 0x05, 0x06, 0x07, 0x10, 0x11, 0x12, 0x20, 0x21, 0x22, 0x23, 0x30,
   0x31, 0xFF]

/-- Every piece of the spec's state has its value of 70_reset_and_hazards.md R240: each register as read
(ID excepted, which reads its constant), each STATUS and IRQEN bit, and the output `irq`. -/
def AtReset (s : State) : Prop :=
  (∀ a, (memRead a s).1 = if a = 0x00 then 0x4E535531 else 0) ∧
    s.busy = false ∧ s.done = false ∧ s.keyv = false ∧ s.errIll = false ∧ s.errNoKey = false ∧
    s.errBusy = false ∧ s.doneIE = false ∧ s.errIE = false ∧ irq s = false

/-- The two states agree on every register that `op` reads (30_encoding.md R82, column "reads"; byte
operands are bits 7:0 only). -/
def readsAgree (op : Opcode) (s u : State) : Prop :=
  match op with
  | .nop | .hinit | .srst => True
  | .gfmul => s.opa.setWidth 8 = u.opa.setWidth 8 ∧ s.opb.setWidth 8 = u.opb.setWidth 8
  | .sbox0 | .sbox1 => s.opa.setWidth 8 = u.opa.setWidth 8
  | .mix0 | .mix1 => s.opa = u.opa
  | .f0 | .f1 => s.opa = u.opa ∧ s.opb = u.opb
  | .sigma | .ksexp => s.din = u.din
  | .setkey => s.key = u.key
  | .gfnf | .gfni => s.din = u.din ∧ s.rk = u.rk
  | .enc | .dec => s.din = u.din ∧ s.wk = u.wk ∧ s.rk = u.rk
  | .hblk => s.din = u.din ∧ s.hst = u.hst

/-- A read of index `a` returns the value `held`, but an unspecified one, a fresh draw, while a command of
the list `window` runs (20_memory.md R61, R66). It changes only the output port, and the draw counter
where a value is drawn (logs 2, 4). -/
def readsAs (s : State) (a : BitVec 8) (held : Word) (window : List Opcode) : Prop :=
  (s.busy = true ∧ s.pend ∈ window →
    ∃ v : Word, exec (.rd a) s = .next { s with rdata := v, draws := s.draws + 1 }) ∧
  (¬(s.busy = true ∧ s.pend ∈ window) → exec (.rd a) s = .next { s with rdata := held })

/-- The carry-less product of two polynomials over GF(2) of degree below 8, by schoolbook addition of
shifted copies (40_field.md R100). -/
def carrylessProduct (a b : BitVec 16) : BitVec 16 :=
  (List.range 8).foldl (fun acc i => if b.getLsbD i then acc ^^^ (a <<< i) else acc) 0

/-- The Complete step of `op` is due. -/
abbrev due (op : Opcode) (s : State) : Prop := s.busy = true ∧ s.lat = 0 ∧ s.pend = op

/-- The cipher context is that of the current key whenever KEYV = 1 (10_state.md R37; it holds during a
running command too). -/
abbrev ContextValid (s : State) : Prop :=
  s.keyv = true → s.wk = s.key ∧ s.ksl = ksx s.key ∧ s.rk = roundKeys s.key (ksx s.key)

/-- The running command was accepted by the rule of 30_encoding.md R84: it is not SRST, a cipher command
has its key, and KEYV is 0 while the context is under rebuild. -/
abbrev PendingAccepted (s : State) : Prop :=
  s.busy = true →
    s.pend ≠ .srst ∧ (needsKey s.pend = true → s.keyv = true) ∧
      (rebuildsContext s.pend = true → s.keyv = false)

/-- While no command runs, none of its latency is left. -/
abbrev LatencySettled (s : State) : Prop := s.busy = false → s.lat = 0

/-- The invariant of the machine. -/
abbrev MachineInv (s : State) : Prop := ContextValid s ∧ PendingAccepted s ∧ LatencySettled s

/-- A run is safe for the host in a state with no error pending (60_exceptions.md R215). -/
def errorFree (s : State) : Bool := !s.errIll && !s.errNoKey && !s.errBusy

end Sys2Proof.Machine
end

