-- ==== Sys2Proof/Certificates/Slice0/Obligations.lean ====
section
/-! DEFINITION. The statements for the provers, each with the rule it formalises. Where a next state is
written `{ s with … }`, everything not named is unchanged: that is the instruction's frame. -/

open Sys2Proof Sys2Proof.Machine

/-! ## Encoding -/

/-- The words of the opcode table, written out from 30_encoding.md R82 (column OP) and
46_control.md R193 and R194 (`we`, `addr`, `wdata`). -/
def Obligations.WordsDecodeAsTheOpcodeMap : Prop :=
  decode (.cmd32 0x00000000) = .ok .nop ∧
  decode (.cmd32 0x00000001) = .ok .gfmul ∧
  decode (.cmd32 0x00000003) = .ok .sbox1 ∧
  decode (.cmd32 0x00000004) = .ok .mix0 ∧
  decode (.cmd32 0x00000010) = .ok .sigma ∧
  decode (.cmd32 0x00000012) = .ok .setkey ∧
  decode (.cmd32 0x00000022) = .ok .enc ∧
  decode (.cmd32 0x00000031) = .ok .hblk ∧
  decode (.cmd32 0x000000FF) = .ok .srst ∧
  decode (.hostbus 0b0_00011010_00000000000000000000000000000000) = .ok (.rd 0x1A) ∧
  decode (.hostbus 0b1_00001100_10000000000000000000000000000001) = .ok (.wr 0x0C 0x80000001)

/-- 30_encoding.md R81 and R83, 46_control.md R192: only the 18 words decode, RSV ≠ 0 and the illegal OP
space are told apart, and any other word written to CMD is rejected with ERR_ILL, or dropped with
ERR_BUSY while a command runs. -/
def Obligations.IllegalWordsAreRejected : Prop :=
  ∀ w : Word,
    ((∃ i, decode (.cmd32 w) = .ok i) ↔ w.toNat ∈ legalWords) ∧
    (decode (.cmd32 w) = .bad .rsvNonzero ↔ 0x100 ≤ w.toNat) ∧
    (w.toNat ∉ legalWords → ∀ s : State,
      (s.busy = false → exec (.wr 0x01 w) s = .next { s with cmd := w, done := false, errIll := true }) ∧
      (s.busy = true → exec (.wr 0x01 w) s = .next { s with errBusy := true }))

/-- Decoding an encoded well-formed instruction gives it back, with every operand at every value. -/
def Obligations.DecodeOfEncodeIsTheInstruction : Prop :=
  ∀ i : Instr, i.wellFormed = true → decode (encode i) = .ok i

/-- A word in its one spelling is the encoding of what it decodes to: no two words are read alike. -/
def Obligations.EncodeOfDecodedCanonicalWord : Prop :=
  ∀ (c : CodeWord) (i : Instr), c.canonical = true → decode c = .ok i → encode i = c

/-! ## Steps -/

/-- A step runs the decoded instruction: the bus word the pins present (and then time passes, `tick`); a
command word written to CMD runs the command it spells; a due Complete step runs the pending command;
and a word placed by `withFetchWord` runs next. -/
def Obligations.StepRunsTheDecodedInstruction : Prop :=
  (∀ (s : State) (p : Pins) (rest : List HostLine) (i : Instr),
    completing s = false → s.host = .cycle p :: rest → p.rst = false → p.sel = true →
    decode (.hostbus p.word) = .ok i → step s = mapNext tick (exec i { s with host := rest })) ∧
  (∀ (s : State) (w : Word) (rest : List HostLine) (i : Instr),
    completing s = false → s.host = .cycle (Pins.issue w) :: rest →
    decode (.cmd32 w) = .ok i → step s = mapNext tick (exec i { s with host := rest })) ∧
  (∀ s : State, completing s = true → step s = exec s.pend.instr s) ∧
  (∀ (s : State) (nbits w : Nat) (i : Instr), decodeTableWord nbits w = some i →
    step (s.withFetchWord nbits w) =
      mapNext tick (exec i { s with lat := if completing s then 1 else s.lat }))

/-- Nothing traps, hangs or fails (60_exceptions.md R213, R217): every instruction and every step goes on
from every state. -/
def Obligations.EveryInstructionAndStepGoesOn : Prop :=
  (∀ (i : Instr) (s : State), ∃ t, exec i s = .next t) ∧ (∀ s : State, ∃ t, step s = .next t)

/-- A command is one host write of its word to CMD, unless its Complete step is due
(spec/opcode_table.json, the rows' notes; 30_encoding.md R80, R87). -/
def Obligations.CommandIsOneWriteOfItsWord : Prop :=
  ∀ (op : Opcode) (s : State), ¬due op s →
    exec op.instr s = exec (.wr 0x01 (op.code.setWidth 32)) s

/-! ## Issue, errors and the register space -/

/-- 30_encoding.md R84: the conditions of `issue(v)` in their order, each with its whole effect. The model's
own choices in it: `lat`, some positive number, and `draws` at acceptance (logs 1, 2); and over SRST
`rdata`, the host list and `draws` kept (logs 4, 6, 2) and PEND at NOP (log 5). -/
def Obligations.IssueDecidesInOrder : Prop :=
  ∀ (s : State) (v : Word),
    (s.busy = true → v = 0x000000FF →
      exec (.wr 0x01 v) s =
        .next { State.reset with rdata := s.rdata, host := s.host, draws := s.draws }) ∧
    (s.busy = true → v ≠ 0x000000FF → exec (.wr 0x01 v) s = .next { s with errBusy := true }) ∧
    (s.busy = false → v.toNat ∉ legalWords →
      exec (.wr 0x01 v) s = .next { s with cmd := v, done := false, errIll := true }) ∧
    (s.busy = false → v = 0x000000FF →
      exec (.wr 0x01 v) s =
        .next { State.reset with rdata := s.rdata, host := s.host, draws := s.draws }) ∧
    (s.busy = false → v.toNat ∈ [0x20, 0x21, 0x22, 0x23] → s.keyv = false →
      exec (.wr 0x01 v) s = .next { s with cmd := v, done := false, errNoKey := true }) ∧
    (∀ op : Opcode, s.busy = false → v = op.code.setWidth 32 → op ≠ .srst →
      (v.toNat ∈ [0x20, 0x21, 0x22, 0x23] → s.keyv = true) →
      ∃ n : Nat, exec (.wr 0x01 v) s = .next
        { s with
          cmd := v
          done := false
          keyv := if v = 0x12 ∨ v = 0x31 then false else s.keyv
          pend := op
          busy := true
          lat := n + 1
          draws := s.draws + 1 })

/-- 60_exceptions.md R211: the four cipher commands are rejected without a valid context, with DOUT and
everything else unchanged; and nothing else raises ERR_NOKEY: no other instruction in any state, and
no step but the host's write of one of the four words to CMD while BUSY = 0 and KEYV = 0. -/
def Obligations.CipherCommandsNeedAKey : Prop :=
  (∀ s : State, s.busy = false → s.keyv = false →
    exec .gfnf s = .next { s with cmd := 0x20, done := false, errNoKey := true } ∧
    exec .gfni s = .next { s with cmd := 0x21, done := false, errNoKey := true } ∧
    exec .enc s = .next { s with cmd := 0x22, done := false, errNoKey := true } ∧
    exec .dec s = .next { s with cmd := 0x23, done := false, errNoKey := true }) ∧
  (∀ (i : Instr) (s t : State), exec i s = .next t → s.errNoKey = false → t.errNoKey = true →
    s.busy = false ∧ s.keyv = false ∧
      (i ∈ [Instr.gfnf, .gfni, .enc, .dec] ∨
        ∃ v : Word, v.toNat ∈ [0x20, 0x21, 0x22, 0x23] ∧ i = .wr 0x01 v)) ∧
  (∀ s t : State, step s = .next t → s.errNoKey = false → t.errNoKey = true →
    s.busy = false ∧ s.keyv = false ∧
      ∃ v : Word, v.toNat ∈ [0x20, 0x21, 0x22, 0x23] ∧ nextWrites s 0x01 v)

/-- 60_exceptions.md R212: what a running command does to the host's writes and reads (`rdata` and `draws`
are the model's own, logs 4, 2). -/
def Obligations.WritesToARunningCommandAreDropped : Prop :=
  ∀ s : State, s.busy = true →
    (∀ (a : BitVec 8) (v : Word), a = 0x01 ∧ v ≠ 0x000000FF ∨ inputIndex a = true →
      exec (.wr a v) s = .next { s with errBusy := true }) ∧
    (∀ v : Word, exec (.wr 0x02 v) s = .next
      { s with
        done := s.done && !v.getLsbD 1
        errIll := s.errIll && !v.getLsbD 3
        errNoKey := s.errNoKey && !v.getLsbD 4
        errBusy := s.errBusy && !v.getLsbD 5 }) ∧
    (∀ v : Word, exec (.wr 0x03 v) s = .next { s with doneIE := v.getLsbD 0, errIE := v.getLsbD 1 }) ∧
    (∀ (a : BitVec 8) (v : Word), readOnlyIndex a = true ∨ reservedIndex a = true →
      exec (.wr a v) s = .next s) ∧
    (∀ a : BitVec 8, ∃ (v : Word) (n : Nat), exec (.rd a) s = .next { s with rdata := v, draws := n })

/-- 20_memory.md R61: what each read returns, and that it changes no state (`rdata` is the output port,
log 4, and `draws` moves only where BUSYREAD is drawn, log 2). The last clauses give each index of
10_state.md R21 with the register that stands there, and with the commands of 20_memory.md R66 that
have it in their write set. -/
def Obligations.ReadReturnsTheRegister : Prop :=
  ∀ (s : State) (a : BitVec 8),
    (reservedIndex a = true → exec (.rd a) s = .next { s with rdata := 0 }) ∧
    (a = 0x02 → ∃ v : Word, exec (.rd a) s = .next { s with rdata := v } ∧
      v.toNat = s.busy.toNat + 2 * s.done.toNat + 4 * s.keyv.toNat + 8 * s.errIll.toNat +
        16 * s.errNoKey.toNat + 32 * s.errBusy.toNat) ∧
    (a = 0x03 → ∃ v : Word, exec (.rd a) s = .next { s with rdata := v } ∧
      v.toNat = s.doneIE.toNat + 2 * s.errIE.toNat) ∧
    (∀ r : Reg, regAt a = some r → s.busy = true → writes s.pend r = true →
      ∃ v : Word, exec (.rd a) s = .next { s with rdata := v, draws := s.draws + 1 }) ∧
    (∀ r : Reg, regAt a = some r → ¬(s.busy = true ∧ writes s.pend r = true) →
      exec (.rd a) s = .next { s with rdata := regValue s r }) ∧
    readsAs s 0x00 0x4E535531 [] ∧
    readsAs s 0x01 s.cmd [] ∧
    (∀ j : Fin 4,
      readsAs s (BitVec.ofNat 8 (0x08 + j)) (s.key.word j) [.hblk] ∧
      readsAs s (BitVec.ofNat 8 (0x0C + j)) (s.din.word j) [] ∧
      readsAs s (BitVec.ofNat 8 (0x10 + j)) (s.dout.word j)
        [.sigma, .ksexp, .gfnf, .gfni, .enc, .dec, .hblk] ∧
      readsAs s (BitVec.ofNat 8 (0x14 + j)) (s.hst.word j) [.hinit, .hblk] ∧
      readsAs s (BitVec.ofNat 8 (0x20 + j)) (s.wk.word j) [.setkey, .hblk] ∧
      readsAs s (BitVec.ofNat 8 (0x24 + j)) (s.ksl.word j) [.setkey, .hblk]) ∧
    readsAs s 0x18 s.opa [] ∧
    readsAs s 0x19 s.opb [] ∧
    readsAs s 0x1A s.res [.gfmul, .sbox0, .sbox1, .mix0, .mix1, .f0, .f1] ∧
    (∀ i : Fin 36, readsAs s (BitVec.ofNat 8 (0x40 + i)) s.rk[i.val] [.setkey, .hblk])

/-- 20_memory.md R62: what each write does. -/
def Obligations.WriteActsByRegister : Prop :=
  ∀ (s : State) (v : Word),
    exec (.wr 0x01 v) s = .next (issue v s) ∧
    exec (.wr 0x02 v) s = .next
      { s with
        done := s.done && !v.getLsbD 1
        errIll := s.errIll && !v.getLsbD 3
        errNoKey := s.errNoKey && !v.getLsbD 4
        errBusy := s.errBusy && !v.getLsbD 5 } ∧
    exec (.wr 0x03 v) s = .next { s with doneIE := v.getLsbD 0, errIE := v.getLsbD 1 } ∧
    (s.busy = true → ∀ a : BitVec 8, inputIndex a = true →
      exec (.wr a v) s = .next { s with errBusy := true }) ∧
    (s.busy = false → ∀ j : Fin 4,
      exec (.wr (BitVec.ofNat 8 (0x08 + j)) v) s =
        .next { s with key := s.key.setWord j v, keyv := false } ∧
      exec (.wr (BitVec.ofNat 8 (0x0C + j)) v) s = .next { s with din := s.din.setWord j v } ∧
      exec (.wr (BitVec.ofNat 8 (0x14 + j)) v) s = .next { s with hst := s.hst.setWord j v }) ∧
    (s.busy = false → exec (.wr 0x18 v) s = .next { s with opa := v } ∧
      exec (.wr 0x19 v) s = .next { s with opb := v }) ∧
    (∀ a : BitVec 8, readOnlyIndex a = true ∨ reservedIndex a = true → exec (.wr a v) s = .next s)

/-- 10_state.md R22: ID reads its constant and ignores writes, and no other register is hard-wired. -/
def Obligations.IdIsTheOneHardwiredRegister : Prop :=
  (∀ s : State, exec (.rd 0x00) s = .next { s with rdata := 0x4E535531 }) ∧
  (∀ (s : State) (v : Word), exec (.wr 0x00 v) s = .next s) ∧
  (∀ r : Reg, r ≠ .ident → ∃ s u : State, regValue s r ≠ regValue u r)

/-- 10_state.md R27, with the output of 60_exceptions.md R214: a write to IRQEN sets the two enables
whether or not BUSY = 1, the other bits read 0, and `irq` follows at once. -/
def Obligations.IrqenMasksTheInterrupt : Prop :=
  State.reset.doneIE = false ∧ State.reset.errIE = false ∧
  ∀ (s : State) (v : Word), ∃ t : State,
    exec (.wr 0x03 v) s = .next t ∧
    t = { s with doneIE := v.getLsbD 0, errIE := v.getLsbD 1 } ∧
    exec (.rd 0x03) t = .next { t with rdata := v &&& 0x3 } ∧
    irq t = ((s.done && v.getLsbD 0) || ((s.errIll || s.errNoKey || s.errBusy) && v.getLsbD 1))

/-- 60_exceptions.md R215: each error bit stays 1 over a step unless that step is a host write of 1 to its
STATUS bit or a reset; no error bit stops the acceptance of a command or is cleared by it; the write
clears each bit by itself; and ERR_ILL of one write and ERR_BUSY of a later one stand together. The
premise on `pend` is what acceptance ensures, kept by every step (StepKeepsTheInvariant). -/
def Obligations.ErrorBitsAreSticky : Prop :=
  (∀ s t : State, PendingAccepted s → step s = .next t →
    (s.errIll = true → t.errIll = true ∨ nextResets s ∨ ∃ v, nextWrites s 0x02 v ∧ v.getLsbD 3 = true) ∧
    (s.errNoKey = true →
      t.errNoKey = true ∨ nextResets s ∨ ∃ v, nextWrites s 0x02 v ∧ v.getLsbD 4 = true) ∧
    (s.errBusy = true →
      t.errBusy = true ∨ nextResets s ∨ ∃ v, nextWrites s 0x02 v ∧ v.getLsbD 5 = true)) ∧
  (∀ (s : State) (op : Opcode), op ≠ .srst → s.busy = false → (needsKey op = true → s.keyv = true) →
    ∃ t, exec op.instr s = .next t ∧ t.busy = true ∧ t.pend = op ∧
      t.errIll = s.errIll ∧ t.errNoKey = s.errNoKey ∧ t.errBusy = s.errBusy) ∧
  (∀ (s : State) (v : Word), ∃ t, exec (.wr 0x02 v) s = .next t ∧
    t.errIll = (s.errIll && !v.getLsbD 3) ∧ t.errNoKey = (s.errNoKey && !v.getLsbD 4) ∧
    t.errBusy = (s.errBusy && !v.getLsbD 5)) ∧
  (∀ s : State, s.errIll = true → s.busy = true →
    ∃ t, exec (.wr 0x0C 0) s = .next t ∧ t.errIll = true ∧ t.errBusy = true)

/-- 10_state.md R26, the columns "set by" and "cleared by" of BUSY and DONE, for every step. The premise on
`pend` is what acceptance ensures, kept by every step (StepKeepsTheInvariant). -/
def Obligations.BusyAndDoneChangeOnlyAsTabled : Prop :=
  ∀ s t : State, PendingAccepted s → step s = .next t →
    (s.busy = false → t.busy = true →
      ∃ op : Opcode, op ≠ .srst ∧ t.pend = op ∧ nextWrites s 0x01 (op.code.setWidth 32)) ∧
    (s.busy = true → t.busy = false → completing s = true ∨ nextResets s) ∧
    (s.done = false → t.done = true → completing s = true) ∧
    (s.done = true → t.done = false →
      nextResets s ∨ (s.busy = false ∧ ∃ v, nextWrites s 0x01 v) ∨
        (∃ v, nextWrites s 0x02 v ∧ v.getLsbD 1 = true))

/-- 10_state.md R26, the columns "set by" and "cleared by" of KEYV, for every step. -/
def Obligations.KeyvChangesOnlyAsTabled : Prop :=
  ∀ s t : State, PendingAccepted s → step s = .next t →
    (s.keyv = false → t.keyv = true → completing s = true ∧ (s.pend = .setkey ∨ s.pend = .hblk)) ∧
    (s.keyv = true → t.keyv = false →
      nextResets s ∨
        (s.busy = false ∧ (nextWrites s 0x01 0x12 ∨ nextWrites s 0x01 0x31)) ∨
        (s.busy = false ∧ ∃ (j : Fin 4) (v : Word), nextWrites s (BitVec.ofNat 8 (0x08 + j)) v))

/-! ## Complete steps: each command's own effect -/

/-- GFMUL, SBOX0, SBOX1, MIX0, MIX1, F0 and F1 at their Complete step write RES and nothing else
(40_field.md R101, 41_sbox.md R112 and R113, 42_round.md R124–R127, 46_control.md R195). -/
def Obligations.PrimitiveCommandsWriteRes : Prop :=
  ∀ s : State,
    (due .gfmul s → exec .gfmul s = .next
      { s with res := (gfmul (s.opa.setWidth 8) (s.opb.setWidth 8)).setWidth 32, busy := false, done := true }) ∧
    (due .sbox0 s → exec .sbox0 s = .next
      { s with res := (sbox0 (s.opa.setWidth 8)).setWidth 32, busy := false, done := true }) ∧
    (due .sbox1 s → exec .sbox1 s = .next
      { s with res := (sbox1 (s.opa.setWidth 8)).setWidth 32, busy := false, done := true }) ∧
    (due .mix0 s → exec .mix0 s = .next { s with res := mixM m0 s.opa, busy := false, done := true }) ∧
    (due .mix1 s → exec .mix1 s = .next { s with res := mixM m1 s.opa, busy := false, done := true }) ∧
    (due .f0 s → exec .f0 s = .next { s with res := roundF0 s.opa s.opb, busy := false, done := true }) ∧
    (due .f1 s → exec .f1 s = .next { s with res := roundF1 s.opa s.opb, busy := false, done := true })

/-- SIGMA, KSEXP and SETKEY at their Complete step (43_key_schedule.md R145, R147, R148). -/
def Obligations.KeyScheduleCommandsComplete : Prop :=
  ∀ s : State,
    (due .sigma s → exec .sigma s = .next { s with dout := sigma s.din, busy := false, done := true }) ∧
    (due .ksexp s → exec .ksexp s = .next
      { s with dout := gfn4 12 con s.din, busy := false, done := true }) ∧
    (due .setkey s → exec .setkey s = .next
      { s with
        wk := s.key
        ksl := ksx s.key
        rk := roundKeys s.key (ksx s.key)
        keyv := true
        busy := false
        done := true })

/-- GFNF, GFNI, ENC and DEC at their Complete step write DOUT and nothing else
(44_feistel_cipher.md R165–R168). -/
def Obligations.CipherCommandsWriteDout : Prop :=
  ∀ s : State,
    (due .gfnf s → exec .gfnf s = .next
      { s with dout := gfn4 18 (roundKey s.rk) s.din, busy := false, done := true }) ∧
    (due .gfni s → exec .gfni s = .next
      { s with dout := gfn4inv 18 (roundKey s.rk) s.din, busy := false, done := true }) ∧
    (due .enc s → exec .enc s = .next
      { s with dout := enc s.wk (roundKey s.rk) s.din, busy := false, done := true }) ∧
    (due .dec s → exec .dec s = .next
      { s with dout := dec s.wk (roundKey s.rk) s.din, busy := false, done := true })

/-- NOP, HINIT and HBLK at their Complete step (46_control.md R190, 45_hash.md R180, R181). -/
def Obligations.NopAndHashCommandsComplete : Prop :=
  ∀ s : State,
    (due .nop s → exec .nop s = .next { s with busy := false, done := true }) ∧
    (due .hinit s → exec .hinit s = .next { s with hst := ⟨0, 0, 0, 0⟩, busy := false, done := true }) ∧
    (due .hblk s → exec .hblk s = .next
      { s with
        wk := s.din
        ksl := ksx s.din
        rk := roundKeys s.din (ksx s.din)
        key := s.din
        hst := (enc s.din (roundKey (roundKeys s.din (ksx s.din))) s.hst).xor s.hst
        dout := (enc s.din (roundKey (roundKeys s.din (ksx s.din))) s.hst).xor s.hst
        keyv := true
        busy := false
        done := true })

/-- 46_control.md R191: SRST acts at issue, BUSY or not, and leaves every register, flag and enable at its
reset value; it and the write of its word to CMD are the same. That `rdata`, the host list and `draws`
are kept is the model's choice (logs 4, 6, 2). -/
def Obligations.SrstResetsFromEveryState : Prop :=
  encode .srst = .cmd32 0x000000FF ∧
  ∀ s : State, ∃ t : State,
    exec .srst s = .next t ∧ exec (.wr 0x01 0x000000FF) s = .next t ∧ AtReset t ∧
      t.rdata = s.rdata ∧ t.host = s.host ∧ t.draws = s.draws

/-- 70_reset_and_hazards.md R240, R241: the state after reset, of the reset state itself, of SRST and of a
cycle with `rst = 1`, whatever command was running. Where a Complete step is due when that cycle is
presented, the model takes it first (log 10), and the reset state is reached in two steps. The host
list goes on after the cycle (log 6). -/
def Obligations.ResetLeavesEveryRegisterAtItsValue : Prop :=
  AtReset State.reset ∧
  (∀ s : State, ∃ t, exec .srst s = .next t ∧ AtReset t) ∧
  (∀ (s : State) (p : Pins) (rest : List HostLine), completing s = false → s.host = .cycle p :: rest →
    p.rst = true → ∃ t, step s = .next t ∧ AtReset t ∧ t.host = rest) ∧
  (∀ (s : State) (p : Pins) (rest : List HostLine), completing s = true → s.host = .cycle p :: rest →
    p.rst = true → ∃ u t, step s = .next u ∧ step u = .next t ∧ AtReset t ∧ t.host = rest)

/-- A Complete step writes its write set only (20_memory.md R66, 46_control.md R195): every other register
reads as before, STATUS aside, whose BUSY becomes 0, DONE 1 and KEYV 1 after SETKEY and HBLK. The
premise on `pend` is what acceptance ensures. That PEND stays although BUSY is 0 is the model's choice
(log 5), and so is what `lat`, `draws`, `rdata` and the host list do (logs 1, 2, 4, 6). -/
def Obligations.CompleteStepWritesOnlyItsWriteSet : Prop :=
  ∀ s t : State, completing s = true → s.pend ≠ .srst → step s = .next t →
    (∀ r : Reg, r ≠ .status → writes s.pend r = false → regValue t r = regValue s r) ∧
    t.busy = false ∧ t.done = true ∧ t.keyv = (s.keyv || s.pend == .setkey || s.pend == .hblk) ∧
    t.errIll = s.errIll ∧ t.errNoKey = s.errNoKey ∧ t.errBusy = s.errBusy ∧
    t.host = s.host ∧ t.rdata = s.rdata ∧ t.draws = s.draws ∧ t.lat = s.lat ∧ t.pend = s.pend

/-- The result of a command depends on nothing but the registers it reads (30_encoding.md R82, column
"reads"; 10_state.md R32 for the ignored bits). -/
def Obligations.ResultDependsOnlyOnTheRegistersRead : Prop :=
  ∀ (op : Opcode) (s u t v : State), due op s → due op u → readsAgree op s u →
    exec op.instr s = .next t → exec op.instr u = .next v →
    ∀ r : Reg, writes op r = true → regValue t r = regValue v r

/-! ## Invariants and progress -/

/-- The reset state meets the invariant. -/
def Obligations.ResetMeetsTheInvariant : Prop := MachineInv State.reset

/-- Every step keeps the invariant: the context is that of the current key whenever KEYV = 1
(10_state.md R37), a running command was accepted by R84, and an idle core has no latency left (the
model's own field, log 1). -/
def Obligations.StepKeepsTheInvariant : Prop := ∀ s t : State, MachineInv s → step s = .next t → MachineInv t

/-- The inputs, the results and the identity of a running command do not change before its Complete step,
and each step before it uses up one step of its latency (10_state.md R39; the latency is the model's
own field, log 1). -/
def Obligations.RunningCommandIsFrozen : Prop :=
  ∀ s t : State, s.busy = true → completing s = false → step s = .next t →
    nextResets s ∨
      (t.busy = true ∧ t.pend = s.pend ∧ t.lat + 1 = s.lat ∧ t.cmd = s.cmd ∧ t.keyv = s.keyv ∧
        t.key = s.key ∧ t.din = s.din ∧ t.dout = s.dout ∧ t.hst = s.hst ∧ t.opa = s.opa ∧
        t.opb = s.opb ∧ t.res = s.res ∧ t.wk = s.wk ∧ t.ksl = s.ksl ∧ t.rk = s.rk)

/-- 00_scope.md R12: the Complete step of a running command is taken after finitely many Host steps:
after as many as its latency, it is due, unless the host resets the core; and in every case the core
is no longer busy one step later at most. The latency `lat` is the model's form of R12 (log 1). -/
def Obligations.RunningCommandCompletes : Prop :=
  (∀ s : State, s.busy = true → (∀ l ∈ s.host, l.resets = false) →
    ∃ u, Host.Core.run core s.lat s = .next u ∧ due s.pend u) ∧
  (∀ s : State, s.busy = true →
    ∃ k t, k ≤ s.lat + 1 ∧ Host.Core.run core k s = .next t ∧ t.busy = false)

/-- `run <MNEMONIC>` (30_encoding.md R88): a command written to CMD and then polled for ends, whatever its
latency, in the state of its Complete step on the registers as they were, with `rdata` holding the
last poll's STATUS (the model's own in it: logs 1, 2, 4, 6, 7). -/
def Obligations.RunOfACommandEndsInItsResult : Prop :=
  ∀ (op : Opcode) (s : State), op ≠ .srst → s.busy = false → (needsKey op = true → s.keyv = true) →
    s.host = [.cycle (Pins.issue (encodeCmd op)), .poll] →
    ∃ (k : Nat) (t u : State),
      Host.Core.run core k s = .next t ∧
      exec op.instr
        { s with
          cmd := encodeCmd op
          done := false
          keyv := s.keyv && !rebuildsContext op
          pend := op
          busy := true
          lat := 0
          host := [] } = .next u ∧
      t = { u with rdata := statusWord u, draws := s.draws + 1 }

/-! ## The datapath -/

/-- 40_field.md R100: GFmul is the remainder of the carry-less product modulo x^8+x^4+x^3+x^2+1. -/
def Obligations.GfmulIsTheProductModulo11D : Prop :=
  ∀ a b : Byte, ∃ q : BitVec 16, q.toNat < 128 ∧
    carrylessProduct (a.setWidth 16) (b.setWidth 16) =
      (carrylessProduct 0x11D q) ^^^ (gfmul a b).setWidth 16

/-- 40_field.md R102: the field laws of GFmul, and that 0x02 has order 255. -/
def Obligations.GfmulIsAFieldProduct : Prop :=
  (∀ a b : Byte, gfmul a b = gfmul b a) ∧
  (∀ a b c : Byte, gfmul (gfmul a b) c = gfmul a (gfmul b c)) ∧
  (∀ a b c : Byte, gfmul a (b ^^^ c) = gfmul a b ^^^ gfmul a c) ∧
  (∀ b : Byte, gfmul 1 b = b ∧ gfmul 0 b = 0) ∧
  (∀ a : Byte, a ≠ 0 → ∃ b : Byte, gfmul a b = 1 ∧ ∀ c : Byte, gfmul a c = 1 → c = b) ∧
  (∀ n : Nat, 0 < n → n < 255 → (gfmul 0x02)^[n] 1 ≠ 1) ∧ (gfmul 0x02)^[255] 1 = 1

/-- 42_round.md R128: MixM is GF(2)-linear, and M0 and M1 are involutions. -/
def Obligations.DiffusionIsLinearAndInvolutive : Prop :=
  (∀ a b : Word, mixM m0 (a ^^^ b) = mixM m0 a ^^^ mixM m0 b) ∧
  (∀ a b : Word, mixM m1 (a ^^^ b) = mixM m1 a ^^^ mixM m1 b) ∧
  (∀ w : Word, mixM m0 (mixM m0 w) = w) ∧ (∀ w : Word, mixM m1 (mixM m1 w) = w)

/-- 42_round.md R128: for each round key, F0 and F1 are bijections of the words. -/
def Obligations.RoundFunctionsAreBijections : Prop :=
  ∀ rk : Word, Function.Bijective (roundF0 rk) ∧ Function.Bijective (roundF1 rk)

/-- 43_key_schedule.md R143: the double-swap in its bit form and in its word form. -/
def Obligations.SigmaInBitsAndInWords : Prop :=
  ∀ x : Block,
    (sigma x).bits =
      x.bits.extractLsb' 64 57 ++ (x.bits.extractLsb' 0 7 ++
        (x.bits.extractLsb' 121 7 ++ x.bits.extractLsb' 7 57)) ∧
    sigma x =
      ⟨(x.w0 <<< 7) ||| (x.w1 >>> 25), (x.w1 <<< 7) ||| (x.w3 &&& 0x0000007F),
        (x.w0 &&& 0xFE000000) ||| (x.w2 >>> 7), (x.w2 <<< 25) ||| (x.w3 >>> 7)⟩

/-- 43_key_schedule.md R148, corner cases: the order of the double-swap as a permutation is 180. -/
def Obligations.SigmaHasOrder180 : Prop :=
  (∀ x : Block, sigma^[180] x = x) ∧ ∀ n : Nat, 0 < n → n < 180 → ∃ x : Block, sigma^[n] x ≠ x

/-- 43_key_schedule.md R146: the whitening words, the expander output and the 36 round-key words that a
key gives, as SETKEY leaves them. -/
def Obligations.SetkeyExtractsTheRoundKeys : Prop :=
  ∀ s : State, due .setkey s → ∃ t : State,
    exec .setkey s = .next t ∧
    t.wk = s.key ∧
    t.ksl = gfn4 12 con s.key ∧
    ∀ (i : Fin 9) (j : Fin 4),
      roundKey t.rk (4 * i + j) =
        (sigma^[i] (gfn4 12 con s.key)).word j ^^^ con (24 + 4 * i + j) ^^^
          (if i.val % 2 = 1 then s.key.word j else 0)

/-- 44_feistel_cipher.md R162: the two networks are inverse to each other, for every number of rounds,
every round key and every input. -/
def Obligations.FeistelNetworksAreInverse : Prop :=
  ∀ (r : Nat) (rk : Nat → Word) (x : Block),
    gfn4inv r rk (gfn4 r rk x) = x ∧ gfn4 r rk (gfn4inv r rk x) = x

/-- 44_feistel_cipher.md R164, on the machine: DEC of ENC's DOUT under the same context gives DIN back,
and the other way round. -/
def Obligations.DecAndEncUndoEachOther : Prop :=
  ∀ s u t : State, u.wk = s.wk → u.rk = s.rk → u.din = t.dout →
    (due .enc s → due .dec u → exec .enc s = .next t → ∃ v, exec .dec u = .next v ∧ v.dout = s.din) ∧
    (due .dec s → due .enc u → exec .dec s = .next t → ∃ v, exec .enc u = .next v ∧ v.dout = s.din)

/-- 45_hash.md R182: HBLK is SETKEY on the message block, ENC of the hash state under the context built,
and the feedback exclusive-or. -/
def Obligations.HblkIsSetkeyThenEncThenFeedback : Prop :=
  ∀ s k e : State, due .hblk s → due .setkey k → k.key = s.din →
    ∀ k' : State, exec .setkey k = .next k' → due .enc e → e.wk = k'.wk → e.rk = k'.rk → e.din = s.hst →
      ∀ e' : State, exec .enc e = .next e' →
        ∃ t : State, exec .hblk s = .next t ∧ t.hst = e'.dout.xor s.hst ∧ t.dout = t.hst ∧
          t.key = s.din ∧ t.wk = k'.wk ∧ t.ksl = k'.ksl ∧ t.rk = k'.rk

/-! ## The host's side -/

/-- 45_hash.md R183: the padding is 0x80 and then zero bytes, 1 to 16 bytes in all, up to the least
multiple of 16 above the message's length. -/
def Obligations.PaddingReachesTheNextBlock : Prop :=
  ∀ m : List Byte, ∃ z : Nat,
    pad m = m ++ 0x80 :: List.replicate z 0 ∧ z ≤ 15 ∧ z = 15 - m.length % 16 ∧
    (pad m).length % 16 = 0 ∧ m.length < (pad m).length ∧
    ∀ n : Nat, m.length < n → n % 16 = 0 → (pad m).length ≤ n

/-- 00_scope.md R14: `load_be` and `store_be` undo each other, and byte `B[i]` is bits 127−8i to 120−8i of
the 128-bit value. -/
def Obligations.LoadAndStoreAreBigEndian : Prop :=
  (∀ x : Block, loadBe (storeBe x) = x) ∧
  (∀ b : List Byte, b.length = 16 → storeBe (loadBe b) = b ∧
    ∀ i : Fin 16, (loadBe b).bits.extractLsb' (120 - 8 * i) 8 = b.getD i 0)
end

