-- ==== Sys2Proof/Laws/Decode.lean ====
section
/-! SUPPORT. Lemmas about the decoder and the encoder, for one opcode or one word at a time. -/

namespace Sys2Proof

theorem Opcode.mem_all (op : Opcode) : op ∈ Opcode.all := by cases op <;> decide

theorem Opcode.code_injective (a b : Opcode) (h : a.code = b.code) : a = b := by
  cases a <;> cases b <;> first | rfl | exact absurd h (by decide)

@[simp] theorem decodeOp_code (op : Opcode) : decodeOp op.code = some op := by cases op <;> rfl

/-- What a row found for an OP says. -/
theorem code_of_decodeOp {b : Byte} {op : Opcode} (h : decodeOp b = some op) : op.code = b := by
  simpa using List.find?_some h

/-- An OP with no row is in the illegal space of 30_encoding.md R83, and the other way round. -/
theorem decodeOp_isSome (b : Byte) : (decodeOp b).isSome = legalOp b := by
  revert b; decide +kernel

@[simp] theorem decodeCmd_encodeCmd (op : Opcode) : decodeCmd (encodeCmd op) = .ok op := by
  cases op <;> rfl

/-- A command word is its OP zero-extended. -/
theorem encodeCmd_of_decodeCmd {v : Word} {op : Opcode} (h : decodeCmd v = .ok op) :
    encodeCmd op = v := by
  unfold decodeCmd at h
  split at h
  · next hr =>
    split at h
    · next ho =>
      cases h
      rw [encodeCmd, code_of_decodeOp ho]
      ext i hi
      have hb := congrArg (fun x => x.getLsbD (i - 8)) hr
      by_cases h8 : i < 8
      · simp [h8, BitVec.getLsbD_eq_getElem hi]
      · have : 8 + (i - 8) = i := by omega
        have h24 : i - 8 < 24 := by omega
        simp [this, h24] at hb
        simpa [h8, BitVec.getLsbD_eq_getElem hi] using hb
    · cases h
  · cases h

@[simp] theorem srst_word : encodeCmd .srst = 0x000000FF := rfl

/-- The bits of a bus word. -/
theorem getLsbD_encodeBus (we : Bool) (a : BitVec 8) (d : Word) (i : Nat) :
    (encodeBus we a d).getLsbD i =
      if i < 32 then d.getLsbD i else if i < 40 then a.getLsbD (i - 32) else decide (i = 40) && we := by
  show (BitVec.ofBool we ++ (a ++ d) : BitVec (1 + (8 + 32))).getLsbD i = _
  rw [BitVec.getLsbD_append, BitVec.getLsbD_append]
  by_cases h : i < 32
  · have h' : i < 8 + 32 := by omega
    simp [h, h']
  · by_cases h4 : i < 40
    · have h' : i < 8 + 32 := by omega
      simp [h, h4]
    · have h' : ¬ i < 8 + 32 := by omega
      have e : (i - (8 + 32) = 0) = (i = 40) := by simp; omega
      simp [h, h4, e]

/-- The fields of a bus word. -/
theorem encodeBus_we (we : Bool) (a : BitVec 8) (d : Word) :
    (encodeBus we a d).getLsbD 40 = we := by
  rw [getLsbD_encodeBus]; simp

@[simp] theorem encodeBus_addr (we : Bool) (a : BitVec 8) (d : Word) :
    (encodeBus we a d).extractLsb' 32 8 = a := by
  ext i hi
  have h1 : ¬ 32 + i < 32 := by omega
  have h2 : 32 + i < 40 := by omega
  rw [BitVec.getElem_extractLsb', getLsbD_encodeBus, if_neg h1, if_pos h2]
  simp [BitVec.getLsbD_eq_getElem hi]

@[simp] theorem encodeBus_wdata (we : Bool) (a : BitVec 8) (d : Word) :
    (encodeBus we a d).extractLsb' 0 32 = d := by
  ext i hi
  rw [BitVec.getElem_extractLsb', getLsbD_encodeBus]
  simp [hi]

theorem decode_bus (w : BitVec 41) : decode (.hostbus w) = .ok (decodeBus w) := rfl

end Sys2Proof
end

