-- ==== Sys2Proof/Laws/Registers.lean ====
section
/-! SUPPORT. Lemmas about the register map and the blocks. -/

namespace Sys2Proof

@[simp] theorem Block.word_setWord_self (x : Block) (j : Fin 4) (v : Word) :
    (x.setWord j v).word j = v := by
  match j with
  | 0 | 1 | 2 | 3 => rfl

theorem Block.word_setWord_ne (x : Block) {j k : Fin 4} (h : k ≠ j) (v : Word) :
    (x.setWord j v).word k = x.word k := by
  match j, k with
  | 0, 0 | 1, 1 | 2, 2 | 3, 3 => exact absurd rfl h
  | 0, 1 | 0, 2 | 0, 3 | 1, 0 | 1, 2 | 1, 3 | 2, 0 | 2, 1 | 2, 3 | 3, 0 | 3, 1 | 3, 2 => rfl

/-- Two blocks with the same four words are the same. -/
theorem Block.ext_words {x y : Block} (h : ∀ j, x.word j = y.word j) : x = y := by
  cases x; cases y
  have h0 := h 0
  have h1 := h 1
  have h2 := h 2
  have h3 := h 3
  simp only [Block.word] at h0 h1 h2 h3
  simp [*]

/-- Each register stands at its index of 10_state.md R21. -/
@[simp] theorem regAt_addr (r : Reg) : Machine.regAt r.addr = some r := by
  cases r with
  | ident | cmd | status | irqen | opa | opb | res => rfl
  | key j | din j | dout j | hst j | wk j | ksl j => revert j; decide
  | rk i => revert i; decide

/-- A register found at an index has that index. -/
theorem addr_of_regAt {a : BitVec 8} {r : Reg} (h : Machine.regAt a = some r) : r.addr = a := by
  have key : ∀ a : BitVec 8, ∀ r ∈ Machine.regAt a, r.addr = a := by decide +kernel
  exact key a r h

end Sys2Proof
end

