-- ==== Sys2Proof/Laws/State.lean ====
section
/-! SUPPORT. One lemma per field for each named update of the state. -/

namespace Sys2Proof.Machine

/-! `writeStatus` -/

@[simp] theorem writeStatus_cmd (v : Word) (s : State) : (writeStatus v s).cmd = s.cmd := rfl
@[simp] theorem writeStatus_busy (v : Word) (s : State) : (writeStatus v s).busy = s.busy := rfl
@[simp] theorem writeStatus_done (v : Word) (s : State) :
    (writeStatus v s).done = (s.done && !v.getLsbD 1) := rfl
@[simp] theorem writeStatus_keyv (v : Word) (s : State) : (writeStatus v s).keyv = s.keyv := rfl
@[simp] theorem writeStatus_errIll (v : Word) (s : State) :
    (writeStatus v s).errIll = (s.errIll && !v.getLsbD 3) := rfl
@[simp] theorem writeStatus_errNoKey (v : Word) (s : State) :
    (writeStatus v s).errNoKey = (s.errNoKey && !v.getLsbD 4) := rfl
@[simp] theorem writeStatus_errBusy (v : Word) (s : State) :
    (writeStatus v s).errBusy = (s.errBusy && !v.getLsbD 5) := rfl
@[simp] theorem writeStatus_doneIE (v : Word) (s : State) :
    (writeStatus v s).doneIE = s.doneIE := rfl
@[simp] theorem writeStatus_errIE (v : Word) (s : State) : (writeStatus v s).errIE = s.errIE := rfl
@[simp] theorem writeStatus_key (v : Word) (s : State) : (writeStatus v s).key = s.key := rfl
@[simp] theorem writeStatus_din (v : Word) (s : State) : (writeStatus v s).din = s.din := rfl
@[simp] theorem writeStatus_dout (v : Word) (s : State) : (writeStatus v s).dout = s.dout := rfl
@[simp] theorem writeStatus_hst (v : Word) (s : State) : (writeStatus v s).hst = s.hst := rfl
@[simp] theorem writeStatus_opa (v : Word) (s : State) : (writeStatus v s).opa = s.opa := rfl
@[simp] theorem writeStatus_opb (v : Word) (s : State) : (writeStatus v s).opb = s.opb := rfl
@[simp] theorem writeStatus_res (v : Word) (s : State) : (writeStatus v s).res = s.res := rfl
@[simp] theorem writeStatus_wk (v : Word) (s : State) : (writeStatus v s).wk = s.wk := rfl
@[simp] theorem writeStatus_ksl (v : Word) (s : State) : (writeStatus v s).ksl = s.ksl := rfl
@[simp] theorem writeStatus_rk (v : Word) (s : State) : (writeStatus v s).rk = s.rk := rfl
@[simp] theorem writeStatus_pend (v : Word) (s : State) : (writeStatus v s).pend = s.pend := rfl
@[simp] theorem writeStatus_lat (v : Word) (s : State) : (writeStatus v s).lat = s.lat := rfl
@[simp] theorem writeStatus_rdata (v : Word) (s : State) : (writeStatus v s).rdata = s.rdata := rfl
@[simp] theorem writeStatus_host (v : Word) (s : State) : (writeStatus v s).host = s.host := rfl
@[simp] theorem writeStatus_draws (v : Word) (s : State) : (writeStatus v s).draws = s.draws := rfl

/-! `writeIrqen` -/

@[simp] theorem writeIrqen_cmd (v : Word) (s : State) : (writeIrqen v s).cmd = s.cmd := rfl
@[simp] theorem writeIrqen_busy (v : Word) (s : State) : (writeIrqen v s).busy = s.busy := rfl
@[simp] theorem writeIrqen_done (v : Word) (s : State) : (writeIrqen v s).done = s.done := rfl
@[simp] theorem writeIrqen_keyv (v : Word) (s : State) : (writeIrqen v s).keyv = s.keyv := rfl
@[simp] theorem writeIrqen_errIll (v : Word) (s : State) : (writeIrqen v s).errIll = s.errIll := rfl
@[simp] theorem writeIrqen_errNoKey (v : Word) (s : State) :
    (writeIrqen v s).errNoKey = s.errNoKey := rfl
@[simp] theorem writeIrqen_errBusy (v : Word) (s : State) :
    (writeIrqen v s).errBusy = s.errBusy := rfl
@[simp] theorem writeIrqen_doneIE (v : Word) (s : State) :
    (writeIrqen v s).doneIE = v.getLsbD 0 := rfl
@[simp] theorem writeIrqen_errIE (v : Word) (s : State) :
    (writeIrqen v s).errIE = v.getLsbD 1 := rfl
@[simp] theorem writeIrqen_key (v : Word) (s : State) : (writeIrqen v s).key = s.key := rfl
@[simp] theorem writeIrqen_din (v : Word) (s : State) : (writeIrqen v s).din = s.din := rfl
@[simp] theorem writeIrqen_dout (v : Word) (s : State) : (writeIrqen v s).dout = s.dout := rfl
@[simp] theorem writeIrqen_hst (v : Word) (s : State) : (writeIrqen v s).hst = s.hst := rfl
@[simp] theorem writeIrqen_opa (v : Word) (s : State) : (writeIrqen v s).opa = s.opa := rfl
@[simp] theorem writeIrqen_opb (v : Word) (s : State) : (writeIrqen v s).opb = s.opb := rfl
@[simp] theorem writeIrqen_res (v : Word) (s : State) : (writeIrqen v s).res = s.res := rfl
@[simp] theorem writeIrqen_wk (v : Word) (s : State) : (writeIrqen v s).wk = s.wk := rfl
@[simp] theorem writeIrqen_ksl (v : Word) (s : State) : (writeIrqen v s).ksl = s.ksl := rfl
@[simp] theorem writeIrqen_rk (v : Word) (s : State) : (writeIrqen v s).rk = s.rk := rfl
@[simp] theorem writeIrqen_pend (v : Word) (s : State) : (writeIrqen v s).pend = s.pend := rfl
@[simp] theorem writeIrqen_lat (v : Word) (s : State) : (writeIrqen v s).lat = s.lat := rfl
@[simp] theorem writeIrqen_rdata (v : Word) (s : State) : (writeIrqen v s).rdata = s.rdata := rfl
@[simp] theorem writeIrqen_host (v : Word) (s : State) : (writeIrqen v s).host = s.host := rfl
@[simp] theorem writeIrqen_draws (v : Word) (s : State) : (writeIrqen v s).draws = s.draws := rfl

/-! `raiseError` -/

@[simp] theorem raiseError_cmd (c : ErrorCause) (s : State) :
    (raiseError c s).cmd = s.cmd := by cases c <;> simp [raiseError]
@[simp] theorem raiseError_busy (c : ErrorCause) (s : State) :
    (raiseError c s).busy = s.busy := by cases c <;> simp [raiseError]
@[simp] theorem raiseError_done (c : ErrorCause) (s : State) :
    (raiseError c s).done = s.done := by cases c <;> simp [raiseError]
@[simp] theorem raiseError_keyv (c : ErrorCause) (s : State) :
    (raiseError c s).keyv = s.keyv := by cases c <;> simp [raiseError]
@[simp] theorem raiseError_errIll (c : ErrorCause) (s : State) :
    (raiseError c s).errIll = (s.errIll || decide (c = .illegal)) := by cases c <;> simp [raiseError]
@[simp] theorem raiseError_errNoKey (c : ErrorCause) (s : State) :
    (raiseError c s).errNoKey = (s.errNoKey || decide (c = .noKey)) := by cases c <;> simp [raiseError]
@[simp] theorem raiseError_errBusy (c : ErrorCause) (s : State) :
    (raiseError c s).errBusy = (s.errBusy || decide (c = .busy)) := by cases c <;> simp [raiseError]
@[simp] theorem raiseError_doneIE (c : ErrorCause) (s : State) :
    (raiseError c s).doneIE = s.doneIE := by cases c <;> simp [raiseError]
@[simp] theorem raiseError_errIE (c : ErrorCause) (s : State) :
    (raiseError c s).errIE = s.errIE := by cases c <;> simp [raiseError]
@[simp] theorem raiseError_key (c : ErrorCause) (s : State) :
    (raiseError c s).key = s.key := by cases c <;> simp [raiseError]
@[simp] theorem raiseError_din (c : ErrorCause) (s : State) :
    (raiseError c s).din = s.din := by cases c <;> simp [raiseError]
@[simp] theorem raiseError_dout (c : ErrorCause) (s : State) :
    (raiseError c s).dout = s.dout := by cases c <;> simp [raiseError]
@[simp] theorem raiseError_hst (c : ErrorCause) (s : State) :
    (raiseError c s).hst = s.hst := by cases c <;> simp [raiseError]
@[simp] theorem raiseError_opa (c : ErrorCause) (s : State) :
    (raiseError c s).opa = s.opa := by cases c <;> simp [raiseError]
@[simp] theorem raiseError_opb (c : ErrorCause) (s : State) :
    (raiseError c s).opb = s.opb := by cases c <;> simp [raiseError]
@[simp] theorem raiseError_res (c : ErrorCause) (s : State) :
    (raiseError c s).res = s.res := by cases c <;> simp [raiseError]
@[simp] theorem raiseError_wk (c : ErrorCause) (s : State) :
    (raiseError c s).wk = s.wk := by cases c <;> simp [raiseError]
@[simp] theorem raiseError_ksl (c : ErrorCause) (s : State) :
    (raiseError c s).ksl = s.ksl := by cases c <;> simp [raiseError]
@[simp] theorem raiseError_rk (c : ErrorCause) (s : State) :
    (raiseError c s).rk = s.rk := by cases c <;> simp [raiseError]
@[simp] theorem raiseError_pend (c : ErrorCause) (s : State) :
    (raiseError c s).pend = s.pend := by cases c <;> simp [raiseError]
@[simp] theorem raiseError_lat (c : ErrorCause) (s : State) :
    (raiseError c s).lat = s.lat := by cases c <;> simp [raiseError]
@[simp] theorem raiseError_rdata (c : ErrorCause) (s : State) :
    (raiseError c s).rdata = s.rdata := by cases c <;> simp [raiseError]
@[simp] theorem raiseError_host (c : ErrorCause) (s : State) :
    (raiseError c s).host = s.host := by cases c <;> simp [raiseError]
@[simp] theorem raiseError_draws (c : ErrorCause) (s : State) :
    (raiseError c s).draws = s.draws := by cases c <;> simp [raiseError]

/-! `resetAll` -/

@[simp] theorem resetAll_cmd (s : State) : (resetAll s).cmd = State.reset.cmd := rfl
@[simp] theorem resetAll_busy (s : State) : (resetAll s).busy = State.reset.busy := rfl
@[simp] theorem resetAll_done (s : State) : (resetAll s).done = State.reset.done := rfl
@[simp] theorem resetAll_keyv (s : State) : (resetAll s).keyv = State.reset.keyv := rfl
@[simp] theorem resetAll_errIll (s : State) : (resetAll s).errIll = State.reset.errIll := rfl
@[simp] theorem resetAll_errNoKey (s : State) : (resetAll s).errNoKey = State.reset.errNoKey := rfl
@[simp] theorem resetAll_errBusy (s : State) : (resetAll s).errBusy = State.reset.errBusy := rfl
@[simp] theorem resetAll_doneIE (s : State) : (resetAll s).doneIE = State.reset.doneIE := rfl
@[simp] theorem resetAll_errIE (s : State) : (resetAll s).errIE = State.reset.errIE := rfl
@[simp] theorem resetAll_key (s : State) : (resetAll s).key = State.reset.key := rfl
@[simp] theorem resetAll_din (s : State) : (resetAll s).din = State.reset.din := rfl
@[simp] theorem resetAll_dout (s : State) : (resetAll s).dout = State.reset.dout := rfl
@[simp] theorem resetAll_hst (s : State) : (resetAll s).hst = State.reset.hst := rfl
@[simp] theorem resetAll_opa (s : State) : (resetAll s).opa = State.reset.opa := rfl
@[simp] theorem resetAll_opb (s : State) : (resetAll s).opb = State.reset.opb := rfl
@[simp] theorem resetAll_res (s : State) : (resetAll s).res = State.reset.res := rfl
@[simp] theorem resetAll_wk (s : State) : (resetAll s).wk = State.reset.wk := rfl
@[simp] theorem resetAll_ksl (s : State) : (resetAll s).ksl = State.reset.ksl := rfl
@[simp] theorem resetAll_rk (s : State) : (resetAll s).rk = State.reset.rk := rfl
@[simp] theorem resetAll_pend (s : State) : (resetAll s).pend = State.reset.pend := rfl
@[simp] theorem resetAll_lat (s : State) : (resetAll s).lat = State.reset.lat := rfl
@[simp] theorem resetAll_rdata (s : State) : (resetAll s).rdata = s.rdata := rfl
@[simp] theorem resetAll_host (s : State) : (resetAll s).host = s.host := rfl
@[simp] theorem resetAll_draws (s : State) : (resetAll s).draws = s.draws := rfl

/-! `resetCycle` -/

@[simp] theorem resetCycle_cmd (s : State) : (resetCycle s).cmd = State.reset.cmd := rfl
@[simp] theorem resetCycle_busy (s : State) : (resetCycle s).busy = State.reset.busy := rfl
@[simp] theorem resetCycle_done (s : State) : (resetCycle s).done = State.reset.done := rfl
@[simp] theorem resetCycle_keyv (s : State) : (resetCycle s).keyv = State.reset.keyv := rfl
@[simp] theorem resetCycle_errIll (s : State) : (resetCycle s).errIll = State.reset.errIll := rfl
@[simp] theorem resetCycle_errNoKey (s : State) :
    (resetCycle s).errNoKey = State.reset.errNoKey := rfl
@[simp] theorem resetCycle_errBusy (s : State) : (resetCycle s).errBusy = State.reset.errBusy := rfl
@[simp] theorem resetCycle_doneIE (s : State) : (resetCycle s).doneIE = State.reset.doneIE := rfl
@[simp] theorem resetCycle_errIE (s : State) : (resetCycle s).errIE = State.reset.errIE := rfl
@[simp] theorem resetCycle_key (s : State) : (resetCycle s).key = State.reset.key := rfl
@[simp] theorem resetCycle_din (s : State) : (resetCycle s).din = State.reset.din := rfl
@[simp] theorem resetCycle_dout (s : State) : (resetCycle s).dout = State.reset.dout := rfl
@[simp] theorem resetCycle_hst (s : State) : (resetCycle s).hst = State.reset.hst := rfl
@[simp] theorem resetCycle_opa (s : State) : (resetCycle s).opa = State.reset.opa := rfl
@[simp] theorem resetCycle_opb (s : State) : (resetCycle s).opb = State.reset.opb := rfl
@[simp] theorem resetCycle_res (s : State) : (resetCycle s).res = State.reset.res := rfl
@[simp] theorem resetCycle_wk (s : State) : (resetCycle s).wk = State.reset.wk := rfl
@[simp] theorem resetCycle_ksl (s : State) : (resetCycle s).ksl = State.reset.ksl := rfl
@[simp] theorem resetCycle_rk (s : State) : (resetCycle s).rk = State.reset.rk := rfl
@[simp] theorem resetCycle_pend (s : State) : (resetCycle s).pend = State.reset.pend := rfl
@[simp] theorem resetCycle_lat (s : State) : (resetCycle s).lat = State.reset.lat := rfl
@[simp] theorem resetCycle_rdata (s : State) : (resetCycle s).rdata = Config.rstRdata s.draws := rfl
@[simp] theorem resetCycle_host (s : State) : (resetCycle s).host = s.host := rfl
@[simp] theorem resetCycle_draws (s : State) : (resetCycle s).draws = s.draws + 1 := rfl

/-! `accept` -/

@[simp] theorem accept_cmd (op : Opcode) (s : State) : (accept op s).cmd = s.cmd := rfl
@[simp] theorem accept_busy (op : Opcode) (s : State) : (accept op s).busy = true := rfl
@[simp] theorem accept_done (op : Opcode) (s : State) : (accept op s).done = s.done := rfl
@[simp] theorem accept_keyv (op : Opcode) (s : State) :
    (accept op s).keyv = (s.keyv && !rebuildsContext op) := rfl
@[simp] theorem accept_errIll (op : Opcode) (s : State) : (accept op s).errIll = s.errIll := rfl
@[simp] theorem accept_errNoKey (op : Opcode) (s : State) :
    (accept op s).errNoKey = s.errNoKey := rfl
@[simp] theorem accept_errBusy (op : Opcode) (s : State) : (accept op s).errBusy = s.errBusy := rfl
@[simp] theorem accept_doneIE (op : Opcode) (s : State) : (accept op s).doneIE = s.doneIE := rfl
@[simp] theorem accept_errIE (op : Opcode) (s : State) : (accept op s).errIE = s.errIE := rfl
@[simp] theorem accept_key (op : Opcode) (s : State) : (accept op s).key = s.key := rfl
@[simp] theorem accept_din (op : Opcode) (s : State) : (accept op s).din = s.din := rfl
@[simp] theorem accept_dout (op : Opcode) (s : State) : (accept op s).dout = s.dout := rfl
@[simp] theorem accept_hst (op : Opcode) (s : State) : (accept op s).hst = s.hst := rfl
@[simp] theorem accept_opa (op : Opcode) (s : State) : (accept op s).opa = s.opa := rfl
@[simp] theorem accept_opb (op : Opcode) (s : State) : (accept op s).opb = s.opb := rfl
@[simp] theorem accept_res (op : Opcode) (s : State) : (accept op s).res = s.res := rfl
@[simp] theorem accept_wk (op : Opcode) (s : State) : (accept op s).wk = s.wk := rfl
@[simp] theorem accept_ksl (op : Opcode) (s : State) : (accept op s).ksl = s.ksl := rfl
@[simp] theorem accept_rk (op : Opcode) (s : State) : (accept op s).rk = s.rk := rfl
@[simp] theorem accept_pend (op : Opcode) (s : State) : (accept op s).pend = op := rfl
@[simp] theorem accept_lat (op : Opcode) (s : State) :
    (accept op s).lat = Config.latency op s.draws + 1 := rfl
@[simp] theorem accept_rdata (op : Opcode) (s : State) : (accept op s).rdata = s.rdata := rfl
@[simp] theorem accept_host (op : Opcode) (s : State) : (accept op s).host = s.host := rfl
@[simp] theorem accept_draws (op : Opcode) (s : State) : (accept op s).draws = s.draws + 1 := rfl

/-! `finish` -/

@[simp] theorem finish_cmd (s : State) : (finish s).cmd = s.cmd := rfl
@[simp] theorem finish_busy (s : State) : (finish s).busy = false := rfl
@[simp] theorem finish_done (s : State) : (finish s).done = true := rfl
@[simp] theorem finish_keyv (s : State) : (finish s).keyv = s.keyv := rfl
@[simp] theorem finish_errIll (s : State) : (finish s).errIll = s.errIll := rfl
@[simp] theorem finish_errNoKey (s : State) : (finish s).errNoKey = s.errNoKey := rfl
@[simp] theorem finish_errBusy (s : State) : (finish s).errBusy = s.errBusy := rfl
@[simp] theorem finish_doneIE (s : State) : (finish s).doneIE = s.doneIE := rfl
@[simp] theorem finish_errIE (s : State) : (finish s).errIE = s.errIE := rfl
@[simp] theorem finish_key (s : State) : (finish s).key = s.key := rfl
@[simp] theorem finish_din (s : State) : (finish s).din = s.din := rfl
@[simp] theorem finish_dout (s : State) : (finish s).dout = s.dout := rfl
@[simp] theorem finish_hst (s : State) : (finish s).hst = s.hst := rfl
@[simp] theorem finish_opa (s : State) : (finish s).opa = s.opa := rfl
@[simp] theorem finish_opb (s : State) : (finish s).opb = s.opb := rfl
@[simp] theorem finish_res (s : State) : (finish s).res = s.res := rfl
@[simp] theorem finish_wk (s : State) : (finish s).wk = s.wk := rfl
@[simp] theorem finish_ksl (s : State) : (finish s).ksl = s.ksl := rfl
@[simp] theorem finish_rk (s : State) : (finish s).rk = s.rk := rfl
@[simp] theorem finish_pend (s : State) : (finish s).pend = s.pend := rfl
@[simp] theorem finish_lat (s : State) : (finish s).lat = s.lat := rfl
@[simp] theorem finish_rdata (s : State) : (finish s).rdata = s.rdata := rfl
@[simp] theorem finish_host (s : State) : (finish s).host = s.host := rfl
@[simp] theorem finish_draws (s : State) : (finish s).draws = s.draws := rfl

/-! `tick` -/

@[simp] theorem tick_cmd (s : State) : (tick s).cmd = s.cmd := rfl
@[simp] theorem tick_busy (s : State) : (tick s).busy = s.busy := rfl
@[simp] theorem tick_done (s : State) : (tick s).done = s.done := rfl
@[simp] theorem tick_keyv (s : State) : (tick s).keyv = s.keyv := rfl
@[simp] theorem tick_errIll (s : State) : (tick s).errIll = s.errIll := rfl
@[simp] theorem tick_errNoKey (s : State) : (tick s).errNoKey = s.errNoKey := rfl
@[simp] theorem tick_errBusy (s : State) : (tick s).errBusy = s.errBusy := rfl
@[simp] theorem tick_doneIE (s : State) : (tick s).doneIE = s.doneIE := rfl
@[simp] theorem tick_errIE (s : State) : (tick s).errIE = s.errIE := rfl
@[simp] theorem tick_key (s : State) : (tick s).key = s.key := rfl
@[simp] theorem tick_din (s : State) : (tick s).din = s.din := rfl
@[simp] theorem tick_dout (s : State) : (tick s).dout = s.dout := rfl
@[simp] theorem tick_hst (s : State) : (tick s).hst = s.hst := rfl
@[simp] theorem tick_opa (s : State) : (tick s).opa = s.opa := rfl
@[simp] theorem tick_opb (s : State) : (tick s).opb = s.opb := rfl
@[simp] theorem tick_res (s : State) : (tick s).res = s.res := rfl
@[simp] theorem tick_wk (s : State) : (tick s).wk = s.wk := rfl
@[simp] theorem tick_ksl (s : State) : (tick s).ksl = s.ksl := rfl
@[simp] theorem tick_rk (s : State) : (tick s).rk = s.rk := rfl
@[simp] theorem tick_pend (s : State) : (tick s).pend = s.pend := rfl
@[simp] theorem tick_lat (s : State) : (tick s).lat = (if s.busy then s.lat - 1 else s.lat) := rfl
@[simp] theorem tick_rdata (s : State) : (tick s).rdata = s.rdata := rfl
@[simp] theorem tick_host (s : State) : (tick s).host = s.host := rfl
@[simp] theorem tick_draws (s : State) : (tick s).draws = s.draws := rfl

/-! `buildContext` -/

@[simp] theorem buildContext_cmd (k : Block) (s : State) : (buildContext k s).cmd = s.cmd := rfl
@[simp] theorem buildContext_busy (k : Block) (s : State) : (buildContext k s).busy = s.busy := rfl
@[simp] theorem buildContext_done (k : Block) (s : State) : (buildContext k s).done = s.done := rfl
@[simp] theorem buildContext_keyv (k : Block) (s : State) : (buildContext k s).keyv = s.keyv := rfl
@[simp] theorem buildContext_errIll (k : Block) (s : State) :
    (buildContext k s).errIll = s.errIll := rfl
@[simp] theorem buildContext_errNoKey (k : Block) (s : State) :
    (buildContext k s).errNoKey = s.errNoKey := rfl
@[simp] theorem buildContext_errBusy (k : Block) (s : State) :
    (buildContext k s).errBusy = s.errBusy := rfl
@[simp] theorem buildContext_doneIE (k : Block) (s : State) :
    (buildContext k s).doneIE = s.doneIE := rfl
@[simp] theorem buildContext_errIE (k : Block) (s : State) :
    (buildContext k s).errIE = s.errIE := rfl
@[simp] theorem buildContext_key (k : Block) (s : State) : (buildContext k s).key = s.key := rfl
@[simp] theorem buildContext_din (k : Block) (s : State) : (buildContext k s).din = s.din := rfl
@[simp] theorem buildContext_dout (k : Block) (s : State) : (buildContext k s).dout = s.dout := rfl
@[simp] theorem buildContext_hst (k : Block) (s : State) : (buildContext k s).hst = s.hst := rfl
@[simp] theorem buildContext_opa (k : Block) (s : State) : (buildContext k s).opa = s.opa := rfl
@[simp] theorem buildContext_opb (k : Block) (s : State) : (buildContext k s).opb = s.opb := rfl
@[simp] theorem buildContext_res (k : Block) (s : State) : (buildContext k s).res = s.res := rfl
@[simp] theorem buildContext_wk (k : Block) (s : State) : (buildContext k s).wk = k := rfl
@[simp] theorem buildContext_ksl (k : Block) (s : State) : (buildContext k s).ksl = ksx k := rfl
@[simp] theorem buildContext_rk (k : Block) (s : State) :
    (buildContext k s).rk = roundKeys k (ksx k) := rfl
@[simp] theorem buildContext_pend (k : Block) (s : State) : (buildContext k s).pend = s.pend := rfl
@[simp] theorem buildContext_lat (k : Block) (s : State) : (buildContext k s).lat = s.lat := rfl
@[simp] theorem buildContext_rdata (k : Block) (s : State) :
    (buildContext k s).rdata = s.rdata := rfl
@[simp] theorem buildContext_host (k : Block) (s : State) : (buildContext k s).host = s.host := rfl
@[simp] theorem buildContext_draws (k : Block) (s : State) :
    (buildContext k s).draws = s.draws := rfl

/-! `compressBlock` -/

@[simp] theorem compressBlock_cmd (s : State) : (compressBlock s).cmd = s.cmd := rfl
@[simp] theorem compressBlock_busy (s : State) : (compressBlock s).busy = s.busy := rfl
@[simp] theorem compressBlock_done (s : State) : (compressBlock s).done = s.done := rfl
@[simp] theorem compressBlock_keyv (s : State) : (compressBlock s).keyv = true := rfl
@[simp] theorem compressBlock_errIll (s : State) : (compressBlock s).errIll = s.errIll := rfl
@[simp] theorem compressBlock_errNoKey (s : State) : (compressBlock s).errNoKey = s.errNoKey := rfl
@[simp] theorem compressBlock_errBusy (s : State) : (compressBlock s).errBusy = s.errBusy := rfl
@[simp] theorem compressBlock_doneIE (s : State) : (compressBlock s).doneIE = s.doneIE := rfl
@[simp] theorem compressBlock_errIE (s : State) : (compressBlock s).errIE = s.errIE := rfl
@[simp] theorem compressBlock_key (s : State) : (compressBlock s).key = s.din := rfl
@[simp] theorem compressBlock_din (s : State) : (compressBlock s).din = s.din := rfl
@[simp] theorem compressBlock_dout (s : State) :
    (compressBlock s).dout = daviesMeyer s.hst s.din := rfl
@[simp] theorem compressBlock_hst (s : State) :
    (compressBlock s).hst = daviesMeyer s.hst s.din := rfl
@[simp] theorem compressBlock_opa (s : State) : (compressBlock s).opa = s.opa := rfl
@[simp] theorem compressBlock_opb (s : State) : (compressBlock s).opb = s.opb := rfl
@[simp] theorem compressBlock_res (s : State) : (compressBlock s).res = s.res := rfl
@[simp] theorem compressBlock_wk (s : State) : (compressBlock s).wk = s.din := rfl
@[simp] theorem compressBlock_ksl (s : State) : (compressBlock s).ksl = ksx s.din := rfl
@[simp] theorem compressBlock_rk (s : State) :
    (compressBlock s).rk = roundKeys s.din (ksx s.din) := rfl
@[simp] theorem compressBlock_pend (s : State) : (compressBlock s).pend = s.pend := rfl
@[simp] theorem compressBlock_lat (s : State) : (compressBlock s).lat = s.lat := rfl
@[simp] theorem compressBlock_rdata (s : State) : (compressBlock s).rdata = s.rdata := rfl
@[simp] theorem compressBlock_host (s : State) : (compressBlock s).host = s.host := rfl
@[simp] theorem compressBlock_draws (s : State) : (compressBlock s).draws = s.draws := rfl

/-! `presentNext` -/

@[simp] theorem presentNext_cmd (p : Pins) (s : State) : (presentNext p s).cmd = s.cmd := rfl
@[simp] theorem presentNext_busy (p : Pins) (s : State) : (presentNext p s).busy = s.busy := rfl
@[simp] theorem presentNext_done (p : Pins) (s : State) : (presentNext p s).done = s.done := rfl
@[simp] theorem presentNext_keyv (p : Pins) (s : State) : (presentNext p s).keyv = s.keyv := rfl
@[simp] theorem presentNext_errIll (p : Pins) (s : State) :
    (presentNext p s).errIll = s.errIll := rfl
@[simp] theorem presentNext_errNoKey (p : Pins) (s : State) :
    (presentNext p s).errNoKey = s.errNoKey := rfl
@[simp] theorem presentNext_errBusy (p : Pins) (s : State) :
    (presentNext p s).errBusy = s.errBusy := rfl
@[simp] theorem presentNext_doneIE (p : Pins) (s : State) :
    (presentNext p s).doneIE = s.doneIE := rfl
@[simp] theorem presentNext_errIE (p : Pins) (s : State) : (presentNext p s).errIE = s.errIE := rfl
@[simp] theorem presentNext_key (p : Pins) (s : State) : (presentNext p s).key = s.key := rfl
@[simp] theorem presentNext_din (p : Pins) (s : State) : (presentNext p s).din = s.din := rfl
@[simp] theorem presentNext_dout (p : Pins) (s : State) : (presentNext p s).dout = s.dout := rfl
@[simp] theorem presentNext_hst (p : Pins) (s : State) : (presentNext p s).hst = s.hst := rfl
@[simp] theorem presentNext_opa (p : Pins) (s : State) : (presentNext p s).opa = s.opa := rfl
@[simp] theorem presentNext_opb (p : Pins) (s : State) : (presentNext p s).opb = s.opb := rfl
@[simp] theorem presentNext_res (p : Pins) (s : State) : (presentNext p s).res = s.res := rfl
@[simp] theorem presentNext_wk (p : Pins) (s : State) : (presentNext p s).wk = s.wk := rfl
@[simp] theorem presentNext_ksl (p : Pins) (s : State) : (presentNext p s).ksl = s.ksl := rfl
@[simp] theorem presentNext_rk (p : Pins) (s : State) : (presentNext p s).rk = s.rk := rfl
@[simp] theorem presentNext_pend (p : Pins) (s : State) : (presentNext p s).pend = s.pend := rfl
@[simp] theorem presentNext_lat (p : Pins) (s : State) :
    (presentNext p s).lat = (if completing s then 1 else s.lat) := rfl
@[simp] theorem presentNext_rdata (p : Pins) (s : State) : (presentNext p s).rdata = s.rdata := rfl
@[simp] theorem presentNext_host (p : Pins) (s : State) :
    (presentNext p s).host = .cycle p :: s.host := rfl
@[simp] theorem presentNext_draws (p : Pins) (s : State) : (presentNext p s).draws = s.draws := rfl

end Sys2Proof.Machine
end

