-- ==== Sys2Proof/Laws/Ops.lean ====
section
/-! SUPPORT. What each shared operation can do, said once. -/

namespace Sys2Proof.Machine

theorem completing_iff (s : State) : completing s = true ↔ s.busy = true ∧ s.lat = 0 := by
  simp [completing]

theorem completing_of_idle {s : State} (h : s.busy = false) : completing s = false := by
  simp [completing, h]

/-- A command whose Complete step is due performs its pseudocode and finishes. -/
theorem command_of_due {op : Opcode} {s : State} (e : State → State)
    (h : s.busy = true ∧ s.lat = 0 ∧ s.pend = op) : command op e s = .next (finish (e s)) := by
  simp [command, completing, h]

/-- At any other moment a command is its issue. -/
theorem command_of_not_due {op : Opcode} {s : State} (e : State → State)
    (h : ¬(s.busy = true ∧ s.lat = 0 ∧ s.pend = op)) :
    command op e s = .next (issue (encodeCmd op) s) := by
  unfold command completing
  rw [if_neg]
  intro hc
  simp only [Bool.and_eq_true, beq_iff_eq] at hc
  exact h ⟨hc.1.1, hc.1.2, hc.2⟩

/-- What a command can answer: its Complete step, or its issue. -/
theorem command_cases {op : Opcode} {e : State → State} {s t : State} (h : command op e s = .next t) :
    (s.busy = true ∧ s.lat = 0 ∧ s.pend = op ∧ t = finish (e s)) ∨
      (¬(s.busy = true ∧ s.lat = 0 ∧ s.pend = op) ∧ t = issue (encodeCmd op) s) := by
  by_cases hd : s.busy = true ∧ s.lat = 0 ∧ s.pend = op
  · rw [command_of_due e hd] at h
    cases h
    exact .inl ⟨hd.1, hd.2.1, hd.2.2, rfl⟩
  · rw [command_of_not_due e hd] at h
    cases h
    exact .inr ⟨hd, rfl⟩

/-- What a write to CMD can do, in the order of 30_encoding.md R84. -/
theorem issue_cases (v : Word) (s : State) :
    (s.busy = true ∧ v = encodeCmd .srst ∧ issue v s = resetAll s) ∨
    (s.busy = true ∧ v ≠ encodeCmd .srst ∧ issue v s = raiseError .busy s) ∨
    (s.busy = false ∧ (∃ e, decodeCmd v = .bad e) ∧
      issue v s = raiseError .illegal { s with cmd := v, done := false }) ∨
    (s.busy = false ∧ v = encodeCmd .srst ∧ issue v s = resetAll s) ∨
    (∃ op, s.busy = false ∧ v = encodeCmd op ∧ op ≠ .srst ∧ needsKey op = true ∧ s.keyv = false ∧
      issue v s = raiseError .noKey { s with cmd := v, done := false }) ∨
    (∃ op, s.busy = false ∧ v = encodeCmd op ∧ op ≠ .srst ∧ (needsKey op = true → s.keyv = true) ∧
      issue v s = accept op { s with cmd := v, done := false }) := by
  cases hb : s.busy
  · cases hd : decodeCmd v with
    | bad e => exact .inr (.inr (.inl ⟨rfl, ⟨e, rfl⟩, by simp [issue, hb, hd]⟩))
    | ok op =>
      have hv := encodeCmd_of_decodeCmd hd
      by_cases hs : op = .srst
      · subst hs
        exact .inr (.inr (.inr (.inl ⟨rfl, hv.symm, by simp [issue, hb, hd, resetAll]⟩)))
      · by_cases hk : needsKey op = true ∧ s.keyv = false
        · exact .inr (.inr (.inr (.inr (.inl ⟨op, rfl, hv.symm, hs, hk.1, hk.2,
            by simp [issue, hb, hd, hs, hk.1, hk.2]⟩))))
        · refine .inr (.inr (.inr (.inr (.inr ⟨op, rfl, hv.symm, hs, fun hn => ?_, ?_⟩))))
          · simpa [hn] using hk
          · have : (needsKey op && !s.keyv) = false := by
              cases hn : needsKey op <;> cases hv' : s.keyv <;> simp_all
            simp [issue, hb, hd, hs, this]
  · by_cases hv : v = encodeCmd .srst
    · exact .inl ⟨rfl, hv, by simp [issue, hb, hv]⟩
    · exact .inr (.inl ⟨rfl, hv, by
        unfold issue
        rw [if_pos hb, if_neg hv]⟩)

/-- What a read can do: return a value and leave the state, or draw BUSYREAD. -/
theorem memRead_cases (a : BitVec 8) (s : State) :
    (regAt a = none ∧ memRead a s = (0, s)) ∨
    (∃ r, regAt a = some r ∧ (s.busy && writes s.pend r) = false ∧ memRead a s = (regValue s r, s)) ∨
    (∃ r, regAt a = some r ∧ (s.busy && writes s.pend r) = true ∧
      memRead a s = (Config.busyRead s.draws, { s with draws := s.draws + 1 })) := by
  cases hr : regAt a with
  | none => exact .inl ⟨rfl, by simp [memRead, hr]⟩
  | some r =>
    cases hw : (s.busy && writes s.pend r)
    · exact .inr (.inl ⟨r, rfl, hw, by simp [memRead, hr, hw]⟩)
    · exact .inr (.inr ⟨r, rfl, hw, by simp [memRead, hr, hw]⟩)

/-- A write to an input register is dropped with ERR_BUSY, or done. -/
theorem writeInput_cases (f : State → State) (s : State) :
    (s.busy = true ∧ writeInput f s = raiseError .busy s) ∨ (s.busy = false ∧ writeInput f s = f s) := by
  cases hb : s.busy
  · exact .inr ⟨rfl, by simp [writeInput, hb]⟩
  · exact .inl ⟨rfl, by simp [writeInput, hb]⟩

/-- What a write can do: issue a command, clear W1C bits, set IRQEN, be dropped, load an input register,
or nothing. -/
theorem memWrite_cases (a : BitVec 8) (v : Word) (s : State) :
    (a = 0x01 ∧ memWrite a v s = issue v s) ∨
    (a = 0x02 ∧ memWrite a v s = writeStatus v s) ∨
    (a = 0x03 ∧ memWrite a v s = writeIrqen v s) ∨
    (s.busy = true ∧ memWrite a v s = raiseError .busy s) ∨
    (∃ j, s.busy = false ∧ a = (Reg.key j).addr ∧
      memWrite a v s = { s with key := s.key.setWord j v, keyv := false }) ∨
    (∃ j, s.busy = false ∧ a = (Reg.din j).addr ∧
      memWrite a v s = { s with din := s.din.setWord j v }) ∨
    (∃ j, s.busy = false ∧ a = (Reg.hst j).addr ∧
      memWrite a v s = { s with hst := s.hst.setWord j v }) ∨
    (s.busy = false ∧ a = 0x18 ∧ memWrite a v s = { s with opa := v }) ∨
    (s.busy = false ∧ a = 0x19 ∧ memWrite a v s = { s with opb := v }) ∨
    memWrite a v s = s := by
  cases hr : regAt a with
  | none => simp [memWrite, hr]
  | some r =>
    have ha := addr_of_regAt hr
    cases r with
    | cmd => exact .inl ⟨ha.symm, by simp [memWrite, hr]⟩
    | status => exact .inr (.inl ⟨ha.symm, by simp [memWrite, hr]⟩)
    | irqen => exact .inr (.inr (.inl ⟨ha.symm, by simp [memWrite, hr]⟩))
    | key j =>
      cases hb : s.busy
      · exact .inr (.inr (.inr (.inr (.inl ⟨j, rfl, ha.symm, by simp [memWrite, hr, writeInput, hb]⟩))))
      · exact .inr (.inr (.inr (.inl ⟨rfl, by simp [memWrite, hr, writeInput, hb]⟩)))
    | din j =>
      cases hb : s.busy
      · exact .inr (.inr (.inr (.inr (.inr (.inl
          ⟨j, rfl, ha.symm, by simp [memWrite, hr, writeInput, hb]⟩)))))
      · exact .inr (.inr (.inr (.inl ⟨rfl, by simp [memWrite, hr, writeInput, hb]⟩)))
    | hst j =>
      cases hb : s.busy
      · exact .inr (.inr (.inr (.inr (.inr (.inr (.inl
          ⟨j, rfl, ha.symm, by simp [memWrite, hr, writeInput, hb]⟩))))))
      · exact .inr (.inr (.inr (.inl ⟨rfl, by simp [memWrite, hr, writeInput, hb]⟩)))
    | opa =>
      cases hb : s.busy
      · exact .inr (.inr (.inr (.inr (.inr (.inr (.inr (.inl
          ⟨rfl, ha.symm, by simp [memWrite, hr, writeInput, hb]⟩)))))))
      · exact .inr (.inr (.inr (.inl ⟨rfl, by simp [memWrite, hr, writeInput, hb]⟩)))
    | opb =>
      cases hb : s.busy
      · exact .inr (.inr (.inr (.inr (.inr (.inr (.inr (.inr (.inl
          ⟨rfl, ha.symm, by simp [memWrite, hr, writeInput, hb]⟩))))))))
      · exact .inr (.inr (.inr (.inl ⟨rfl, by simp [memWrite, hr, writeInput, hb]⟩)))
    | ident | dout _ | res | wk _ | ksl _ | rk _ => simp [memWrite, hr]

@[simp] theorem mapNext_next (f : State → State) (s : State) : mapNext f (.next s) = .next (f s) := rfl

/-- A transformed outcome goes on only where the outcome does. -/
theorem mapNext_eq_next {f : State → State} {o : Host.Outcome State Fault Refusal} {t : State}
    (h : mapNext f o = .next t) : ∃ u, o = .next u ∧ t = f u := by
  cases o with
  | next u => exact ⟨u, rfl, by simpa [mapNext] using h.symm⟩
  | fault r => simp [mapNext] at h
  | refused r => simp [mapNext] at h

end Sys2Proof.Machine
end

