-- ==== Sys2Proof/Laws/Exec.lean ====
section
/-! SUPPORT. Every command in one form: its pseudocode under the shared operation `command`. -/

namespace Sys2Proof.Machine

/-- The "at the Complete step" pseudocode of each command (46_control.md R195); SRST has none. -/
def effect (op : Opcode) (t : State) : State :=
  match op with
  | .nop => t
  | .gfmul => { t with res := byteResult (gfmul (byteOperand t.opa) (byteOperand t.opb)) }
  | .sbox0 => { t with res := byteResult (sbox0 (byteOperand t.opa)) }
  | .sbox1 => { t with res := byteResult (sbox1 (byteOperand t.opa)) }
  | .mix0 => { t with res := mixM m0 t.opa }
  | .mix1 => { t with res := mixM m1 t.opa }
  | .f0 => { t with res := roundF0 t.opa t.opb }
  | .f1 => { t with res := roundF1 t.opa t.opb }
  | .sigma => { t with dout := sigma t.din }
  | .ksexp => { t with dout := ksx t.din }
  | .setkey => { buildContext t.key t with keyv := true }
  | .gfnf => { t with dout := gfn4 18 (roundKey t.rk) t.din }
  | .gfni => { t with dout := gfn4inv 18 (roundKey t.rk) t.din }
  | .enc => { t with dout := enc t.wk (roundKey t.rk) t.din }
  | .dec => { t with dout := dec t.wk (roundKey t.rk) t.din }
  | .hinit => { t with hst := .zero }
  | .hblk => compressBlock t
  | .srst => t

/-- Every command but SRST is `command` on its pseudocode. -/
theorem exec_instr (op : Opcode) (h : op ≠ .srst) (s : State) :
    exec op.instr s = command op (effect op) s := by
  cases op with
  | srst => exact absurd rfl h
  | nop => exact (rfl : execNop s = _)
  | gfmul => exact (rfl : execGfmul s = _)
  | sbox0 => exact (rfl : execSbox0 s = _)
  | sbox1 => exact (rfl : execSbox1 s = _)
  | mix0 => exact (rfl : execMix0 s = _)
  | mix1 => exact (rfl : execMix1 s = _)
  | f0 => exact (rfl : execF0 s = _)
  | f1 => exact (rfl : execF1 s = _)
  | sigma => exact (rfl : execSigma s = _)
  | ksexp => exact (rfl : execKsexp s = _)
  | setkey => exact (rfl : execSetkey s = _)
  | gfnf => exact (rfl : execGfnf s = _)
  | gfni => exact (rfl : execGfni s = _)
  | enc => exact (rfl : execEnc s = _)
  | dec => exact (rfl : execDec s = _)
  | hinit => exact (rfl : execHinit s = _)
  | hblk => exact (rfl : execHblk s = _)

/-- The Complete step of a command that is due. -/
theorem exec_instr_of_due {op : Opcode} (h : op ≠ .srst) {s : State}
    (hd : s.busy = true ∧ s.lat = 0 ∧ s.pend = op) :
    exec op.instr s = .next (finish (effect op s)) := by
  rw [exec_instr op h, command_of_due _ hd]

/-- At any other moment a command is its issue. -/
theorem exec_instr_of_not_due (op : Opcode) {s : State}
    (hd : ¬(s.busy = true ∧ s.lat = 0 ∧ s.pend = op)) :
    exec op.instr s = .next (issue (encodeCmd op) s) := by
  by_cases h : op = .srst
  · subst h
    show Host.Outcome.next (resetAll s) = _
    unfold issue
    split
    · simp
    · rfl
  · rw [exec_instr op h, command_of_not_due _ hd]

/-- Every instruction is a command, a read or a write. -/
theorem instr_cases (i : Instr) :
    (∃ op : Opcode, i = op.instr) ∨ (∃ a, i = .rd a) ∨ (∃ a v, i = .wr a v) := by
  cases i with
  | rd a => exact .inr (.inl ⟨a, rfl⟩)
  | wr a v => exact .inr (.inr ⟨a, v, rfl⟩)
  | nop => exact .inl ⟨.nop, rfl⟩
  | gfmul => exact .inl ⟨.gfmul, rfl⟩
  | sbox0 => exact .inl ⟨.sbox0, rfl⟩
  | sbox1 => exact .inl ⟨.sbox1, rfl⟩
  | mix0 => exact .inl ⟨.mix0, rfl⟩
  | mix1 => exact .inl ⟨.mix1, rfl⟩
  | f0 => exact .inl ⟨.f0, rfl⟩
  | f1 => exact .inl ⟨.f1, rfl⟩
  | sigma => exact .inl ⟨.sigma, rfl⟩
  | ksexp => exact .inl ⟨.ksexp, rfl⟩
  | setkey => exact .inl ⟨.setkey, rfl⟩
  | gfnf => exact .inl ⟨.gfnf, rfl⟩
  | gfni => exact .inl ⟨.gfni, rfl⟩
  | enc => exact .inl ⟨.enc, rfl⟩
  | dec => exact .inl ⟨.dec, rfl⟩
  | hinit => exact .inl ⟨.hinit, rfl⟩
  | hblk => exact .inl ⟨.hblk, rfl⟩
  | srst => exact .inl ⟨.srst, rfl⟩

/-- A write to CMD is the issue of the word. -/
theorem exec_wr_cmd (v : Word) (s : State) : exec (.wr 0x01 v) s = .next (issue v s) := rfl

end Sys2Proof.Machine
end

