-- ==== Sys2Proof/Laws/PerInstr.lean ====
section
/-! SUPPORT. Statements about every instruction as syntax, one lemma per constructor. -/

namespace Sys2Proof.Laws.EncodedForm

/-- The instruction is well formed and its encoding is the one spelling of an instruction: RSV = 0 and a
legal OP, or a bus word whose ignored bits are 0 (30_encoding.md R81, R83). -/
def Statement (i : Instr) : Prop := i.wellFormed = true ∧ (encode i).canonical = true

theorem nop : Statement .nop := ⟨rfl, rfl⟩

theorem gfmul : Statement .gfmul := ⟨rfl, rfl⟩

theorem sbox0 : Statement .sbox0 := ⟨rfl, rfl⟩

theorem sbox1 : Statement .sbox1 := ⟨rfl, rfl⟩

theorem mix0 : Statement .mix0 := ⟨rfl, rfl⟩

theorem mix1 : Statement .mix1 := ⟨rfl, rfl⟩

theorem f0 : Statement .f0 := ⟨rfl, rfl⟩

theorem f1 : Statement .f1 := ⟨rfl, rfl⟩

theorem sigma : Statement .sigma := ⟨rfl, rfl⟩

theorem ksexp : Statement .ksexp := ⟨rfl, rfl⟩

theorem setkey : Statement .setkey := ⟨rfl, rfl⟩

theorem gfnf : Statement .gfnf := ⟨rfl, rfl⟩

theorem gfni : Statement .gfni := ⟨rfl, rfl⟩

theorem enc : Statement .enc := ⟨rfl, rfl⟩

theorem dec : Statement .dec := ⟨rfl, rfl⟩

theorem hinit : Statement .hinit := ⟨rfl, rfl⟩

theorem hblk : Statement .hblk := ⟨rfl, rfl⟩

theorem srst : Statement .srst := ⟨rfl, rfl⟩

theorem rd (addr : BitVec 8) : Statement (.rd addr) := ⟨rfl, by
  simp only [CodeWord.canonical, encode, encodeBus_wdata]
  simp⟩

theorem wr (addr : BitVec 8) (data : Word) : Statement (.wr addr data) := ⟨rfl, by
  simp only [CodeWord.canonical, encode, encodeBus_we, Bool.true_or]⟩

end Sys2Proof.Laws.EncodedForm
end

