-- ==== Sys2Proof/Laws/Step.lean ====
section
/-! SUPPORT. What one step can do, said once. -/

namespace Sys2Proof.Machine

/-- What the next move can be. -/
theorem nextMove_cases (s : State) :
    (completing s = true ∧ nextMove s = .complete s.pend) ∨
    (completing s = false ∧ s.host = [] ∧ nextMove s = .quiet (tick s)) ∨
    (∃ rest, completing s = false ∧ s.host = .poll :: rest ∧
      nextMove s = .transaction (.rd 0x02) { s with host := rest } .poll) ∨
    (∃ p rest, completing s = false ∧ s.host = .cycle p :: rest ∧ p.rst = true ∧
      nextMove s = .quiet (resetCycle { s with host := rest })) ∨
    (∃ p rest, completing s = false ∧ s.host = .cycle p :: rest ∧ p.rst = false ∧ p.sel = true ∧
      nextMove s = .transaction (decodeBus p.word) { s with host := rest } (.cycle p)) ∨
    (∃ p rest, completing s = false ∧ s.host = .cycle p :: rest ∧ p.rst = false ∧ p.sel = false ∧
      nextMove s = .quiet (tick { s with host := rest })) := by
  cases hc : completing s
  · cases hh : s.host with
    | nil => exact .inr (.inl ⟨rfl, rfl, by simp [nextMove, hc, hh]⟩)
    | cons l rest =>
      cases l with
      | poll => exact .inr (.inr (.inl ⟨rest, rfl, rfl, by simp [nextMove, hc, hh, Reg.addr]⟩))
      | cycle p =>
        cases hr : p.rst
        · cases hs : p.sel
          · exact .inr (.inr (.inr (.inr (.inr ⟨p, rest, rfl, rfl, hr, hs,
              by simp [nextMove, hc, hh, hr, hs]⟩))))
          · exact .inr (.inr (.inr (.inr (.inl ⟨p, rest, rfl, rfl, hr, hs,
              by simp [nextMove, hc, hh, hr, hs]⟩))))
        · exact .inr (.inr (.inr (.inl ⟨p, rest, rfl, rfl, hr, by simp [nextMove, hc, hh, hr]⟩)))
  · exact .inl ⟨rfl, by simp [nextMove, hc]⟩

/-- The bus word of a cycle's pins decodes to the transaction they present. -/
theorem decodeBus_word (p : Pins) :
    decodeBus p.word = if p.we then .wr p.addr p.wdata else .rd p.addr := by
  unfold decodeBus Pins.word
  rw [encodeBus_we, encodeBus_addr, encodeBus_wdata]

/-- What one step can do: the Complete step, an idle cycle, a poll, a reset cycle, a write, a read, or a
cycle with nothing selected. -/
theorem step_cases {s t : State} (h : step s = .next t) :
    (completing s = true ∧ exec s.pend.instr s = .next t) ∨
    (completing s = false ∧ s.host = [] ∧ t = tick s) ∨
    (∃ rest u, completing s = false ∧ s.host = .poll :: rest ∧
      exec (.rd 0x02) { s with host := rest } = .next u ∧ t = retire .poll u) ∨
    (∃ p rest, completing s = false ∧ s.host = .cycle p :: rest ∧ p.rst = true ∧
      t = resetCycle { s with host := rest }) ∨
    (∃ p rest, completing s = false ∧ s.host = .cycle p :: rest ∧ p.rst = false ∧ p.sel = true ∧
      p.we = true ∧ t = tick (memWrite p.addr p.wdata { s with host := rest })) ∨
    (∃ p rest u, completing s = false ∧ s.host = .cycle p :: rest ∧ p.rst = false ∧ p.sel = true ∧
      p.we = false ∧ exec (.rd p.addr) { s with host := rest } = .next u ∧ t = tick u) ∨
    (∃ p rest, completing s = false ∧ s.host = .cycle p :: rest ∧ p.rst = false ∧ p.sel = false ∧
      t = tick { s with host := rest }) := by
  unfold step at h
  obtain ⟨hc, hm⟩ | ⟨hc, hh, hm⟩ | ⟨rest, hc, hh, hm⟩ | ⟨p, rest, hc, hh, hr, hm⟩ |
    ⟨p, rest, hc, hh, hr, hs, hm⟩ | ⟨p, rest, hc, hh, hr, hs, hm⟩ := nextMove_cases s <;>
    rw [hm] at h
  · exact .inl ⟨hc, h⟩
  · cases h; exact .inr (.inl ⟨hc, hh, rfl⟩)
  · obtain ⟨u, hu, ht⟩ := mapNext_eq_next h
    exact .inr (.inr (.inl ⟨rest, u, hc, hh, hu, ht⟩))
  · cases h; exact .inr (.inr (.inr (.inl ⟨p, rest, hc, hh, hr, rfl⟩)))
  · obtain ⟨u, hu, ht⟩ := mapNext_eq_next h
    rw [decodeBus_word] at hu
    cases hw : p.we <;> rw [hw] at hu
    · exact .inr (.inr (.inr (.inr (.inr (.inl ⟨p, rest, u, hc, hh, hr, hs, hw, hu, ht⟩)))))
    · cases hu
      exact .inr (.inr (.inr (.inr (.inl ⟨p, rest, hc, hh, hr, hs, hw, ht⟩))))
  · cases h; exact .inr (.inr (.inr (.inr (.inr (.inr ⟨p, rest, hc, hh, hr, hs, rfl⟩)))))

/-- A run of `k + 1` steps is a step and a run of `k` steps. -/
theorem core_run_succ {s t : State} (h : step s = .next t) (k : Nat) :
    Host.Core.run core (k + 1) s = Host.Core.run core k t := by
  have h' : core.step s = .next t := h
  simp only [Host.Core.run, h']

/-- What a read transaction can do to the state: the port `rdata` and the counter of free values only. -/
theorem exec_rd_cases {a : BitVec 8} {s t : State} (h : exec (.rd a) s = .next t) :
    ∃ v n, t = { s with rdata := v, draws := n } := by
  obtain ⟨_, hm⟩ | ⟨r, _, _, hm⟩ | ⟨r, _, _, hm⟩ := memRead_cases a s <;>
    simp only [exec, execRd, hm, Host.Outcome.next.injEq] at h <;> subst h <;> exact ⟨_, _, rfl⟩

/-- A read in terms of the register at its index: what `readsAs` says, for a list of commands that has the
register in their write sets. -/
theorem readsAs_of_regAt {s : State} {a : BitVec 8} {r : Reg} {window : List Opcode}
    (hr : regAt a = some r) (hw : writes s.pend r = true ↔ s.pend ∈ window) :
    readsAs s a (regValue s r) window := by
  refine ⟨fun ⟨hb, hp⟩ => ⟨Config.busyRead s.draws, ?_⟩, fun h => ?_⟩ <;>
    simp only [exec, execRd, memRead, hr]
  · rw [if_pos (by rw [hb, hw.2 hp]; rfl)]
  · rw [if_neg (by rwa [Bool.and_eq_true, hw])]

/-- STATUS reads exactly at every moment (20_memory.md R66): no command writes it. -/
theorem exec_rd_status (s : State) :
    exec (.rd 0x02) s = .next { s with rdata := statusWord s } := by
  have hw : writes s.pend .status = false := by cases s.pend <;> rfl
  have hm : memRead 0x02 s = (statusWord s, s) := by
    unfold memRead
    rw [show regAt 0x02 = some .status from rfl]
    simp only [hw, Bool.and_false, Bool.false_eq_true, if_false, regValue]
  simp only [exec, execRd, hm]

end Sys2Proof.Machine
end

