-- ==== Sys2Proof/Tests/Slice0.lean ====
section
/-! SUPPORT. Tests: the ill-formed terms, the encodings written out from the spec, the spec's own vectors
(95_test_vectors.md, and the examples of the rules), and a witness for the hypotheses of each
obligation. -/

namespace Sys2Proof.Tests

open Sys2Proof Sys2Proof.Machine

/-! ## Ill-formed terms -/

theorem test_wf_wr_imm_has_eight_digits :
    (Line.wr .opa 0x100000000).wellFormed = false ∧ (Line.wr .opa 0xFFFFFFFF).wellFormed = true := by decide

theorem test_wf_ldq_hex_has_32_digits :
    (Line.ldq .key 0x100000000000000000000000000000000).wellFormed = false ∧
      (Line.ldq .hst 0xFFFFFFFFFFFFFFFFFFFFFFFFFFFFFFFF).wellFormed = true := by decide

theorem test_wf_ldq_loads_key_din_and_hst_only :
    (Line.ldq .dout 0).wellFormed = false ∧ (Line.ldq .wk 0).wellFormed = false ∧
      (Line.ldq .ksl 0).wellFormed = false ∧ (Line.ldq .din 0).wellFormed = true ∧
      (Line.rdq .ksl).wellFormed = true := by decide

theorem test_wf_code_rsv : (CodeWord.cmd32 0x100).canonical = false := by decide

theorem test_wf_code_op :
    (CodeWord.cmd32 0x08).canonical = false ∧ (CodeWord.cmd32 0x13).canonical = false ∧
      (CodeWord.cmd32 0x24).canonical = false ∧ (CodeWord.cmd32 0xFE).canonical = false ∧
      (CodeWord.cmd32 0xFF).canonical = true := by decide

theorem test_wf_code_read_datum :
    (CodeWord.hostbus 0x1A00000001).canonical = false ∧ (CodeWord.hostbus 0x1A00000000).canonical = true := by
  decide

/-- 30_encoding.md R83: 238 illegal OP values, and the map's 18 rows are the others. -/
theorem test_wf_legal_op_count :
    ((List.range 256).countP fun n => !legalOp (BitVec.ofNat 8 n)) = 238 ∧
      (∀ b : Byte, legalOp b = (decodeOp b).isSome) := by decide +kernel

/-! ## Decoding, from words written out bit by bit -/

/-- 30_encoding.md R80, R82: RSV (24 zeros) and OP. -/
theorem test_decode_primitive_commands :
    decode (.cmd32 0b000000000000000000000000_00000000) = .ok .nop ∧
    decode (.cmd32 0b000000000000000000000000_00000001) = .ok .gfmul ∧
    decode (.cmd32 0b000000000000000000000000_00000010) = .ok .sbox0 ∧
    decode (.cmd32 0b000000000000000000000000_00000011) = .ok .sbox1 ∧
    decode (.cmd32 0b000000000000000000000000_00000100) = .ok .mix0 ∧
    decode (.cmd32 0b000000000000000000000000_00000101) = .ok .mix1 ∧
    decode (.cmd32 0b000000000000000000000000_00000110) = .ok .f0 ∧
    decode (.cmd32 0b000000000000000000000000_00000111) = .ok .f1 := by decide

theorem test_decode_key_and_cipher_commands :
    decode (.cmd32 0b000000000000000000000000_00010000) = .ok .sigma ∧
    decode (.cmd32 0b000000000000000000000000_00010001) = .ok .ksexp ∧
    decode (.cmd32 0b000000000000000000000000_00010010) = .ok .setkey ∧
    decode (.cmd32 0b000000000000000000000000_00100000) = .ok .gfnf ∧
    decode (.cmd32 0b000000000000000000000000_00100001) = .ok .gfni ∧
    decode (.cmd32 0b000000000000000000000000_00100010) = .ok .enc ∧
    decode (.cmd32 0b000000000000000000000000_00100011) = .ok .dec := by decide

theorem test_decode_hash_and_control_commands :
    decode (.cmd32 0b000000000000000000000000_00110000) = .ok .hinit ∧
    decode (.cmd32 0b000000000000000000000000_00110001) = .ok .hblk ∧
    decode (.cmd32 0b000000000000000000000000_11111111) = .ok .srst := by decide

/-- The rows `rd` and `wr` of spec/opcode_table.json: `0` or `1`, then 8 bits `A`, then 32 bits; the datum of
a read is ignored. -/
theorem test_decode_transactions :
    decode (.hostbus 0b0_01100011_00000000000000000000000000000000) = .ok (.rd 0x63) ∧
    decode (.hostbus 0b0_01100011_10000000000000000000000000000001) = .ok (.rd 0x63) ∧
    decode (.hostbus 0b1_00000001_00000000000000000000000000100010) = .ok (.wr 0x01 0x22) ∧
    decode (.hostbus 0b1_11111111_11111111111111111111111111111110) = .ok (.wr 0xFF 0xFFFFFFFE) := by decide

/-- 30_encoding.md R81, R83: the ends of the illegal ranges, and RSV ≠ 0 with a legal OP. -/
theorem test_decode_rejects_by_name :
    (∀ n ∈ [0x08, 0x0F, 0x13, 0x1F, 0x24, 0x2F, 0x32, 0xFE],
      decode (.cmd32 (BitVec.ofNat 32 n)) = .bad .illegalOpcode) ∧
    (∀ n ∈ [0x100, 0x122, 0x1FF, 0x80000000, 0xFFFFFFFF],
      decode (.cmd32 (BitVec.ofNat 32 n)) = .bad .rsvNonzero) := by decide

theorem test_decode_table_words :
    decodeTableWord 32 0x31 = some .hblk ∧ decodeTableWord 32 0x32 = none ∧
    decodeTableWord 48 0x1A00000000 = some (.rd 0x1A) ∧
    decodeTableWord 48 0x10CDEADBEEF = some (.wr 0x0C 0xDEADBEEF) := by decide

theorem test_encode_words :
    encode .dec = .cmd32 0x23 ∧ encode .srst = .cmd32 0xFF ∧ encode (.rd 0x63) = .hostbus 0x06300000000 ∧
    encode (.wr 0x40 0x12345678) = .hostbus 0x14012345678 := by decide

/-! ## The register map -/

/-- 10_state.md R21: the index of each register, and the reserved indices. -/
theorem test_register_map :
    (∀ a : BitVec 8, (regAt a).isNone = reservedIndex a) ∧
    (∀ a : BitVec 8, ∀ r, regAt a = some r → r.addr = a) ∧
    regAt 0x00 = some .ident ∧ regAt 0x01 = some .cmd ∧ regAt 0x02 = some .status ∧
    regAt 0x03 = some .irqen ∧ regAt 0x08 = some (.key 0) ∧ regAt 0x0B = some (.key 3) ∧
    regAt 0x0C = some (.din 0) ∧ regAt 0x0F = some (.din 3) ∧ regAt 0x10 = some (.dout 0) ∧
    regAt 0x13 = some (.dout 3) ∧ regAt 0x14 = some (.hst 0) ∧ regAt 0x17 = some (.hst 3) ∧
    regAt 0x18 = some .opa ∧ regAt 0x19 = some .opb ∧ regAt 0x1A = some .res ∧
    regAt 0x20 = some (.wk 0) ∧ regAt 0x23 = some (.wk 3) ∧ regAt 0x24 = some (.ksl 0) ∧
    regAt 0x27 = some (.ksl 3) ∧ regAt 0x40 = some (.rk 0) ∧ regAt 0x63 = some (.rk 35) := by decide +kernel

/-! ## Helpers: small states, and what one instruction or one step gives -/

/-- The reset state with a command running whose Complete step is due. -/
def running (op : Opcode) : State := { State.reset with busy := true, pend := op }

/-- The reset state with the context of a key, KEYV = 1 and a command due. -/
def keyedRunning (op : Opcode) (k : Block) : State :=
  { buildContext k (running op) with key := k, keyv := true }

/-- Whether an instruction answers a next state with a property. -/
def gives (i : Instr) (s : State) (p : State → Bool) : Bool :=
  match exec i s with
  | .next t => p t
  | _ => false

/-- Whether a step answers a next state with a property. -/
def stepGives (s : State) (p : State → Bool) : Bool :=
  match step s with
  | .next t => p t
  | _ => false

/-- The state that an instruction answers, for use in further states. -/
def after (i : Instr) (s : State) : State :=
  match exec i s with
  | .next t => t
  | _ => s

/-- The host presents these pins next. -/
def presenting (p : Pins) (s : State) : State := { s with host := [.cycle p] }

/-- The pins of a write transaction. -/
def writePins (a : BitVec 8) (v : Word) : Pins := ⟨false, true, true, a, v⟩

/-- STATUS with these bits 5:0. -/
def withStatus (n : Nat) : State :=
  { State.reset with
    busy := n.testBit 0
    done := n.testBit 1
    keyv := n.testBit 2
    errIll := n.testBit 3
    errNoKey := n.testBit 4
    errBusy := n.testBit 5 }

def key1 : Block := ⟨0xFFEEDDCC, 0xBBAA9988, 0x77665544, 0x33221100⟩
def plain1 : Block := ⟨0x00010203, 0x04050607, 0x08090A0B, 0x0C0D0E0F⟩
def cipher1 : Block := ⟨0xDE2BF2FD, 0x9B74AACD, 0xF1298555, 0x459494FD⟩
def ones : Block := ⟨0xFFFFFFFF, 0xFFFFFFFF, 0xFFFFFFFF, 0xFFFFFFFF⟩

/-! ## The commands, on the spec's vectors (95_test_vectors.md section 2, unless said) -/

/-- 46_control.md R190, example. -/
theorem test_nop :
    gives .nop State.reset (fun t => statusWord t == 0x1 && t.cmd == 0) = true ∧
      gives .nop (running .nop) (fun t => decide (t = { State.reset with done := true })) = true := by decide

theorem test_gfmul_ignores_high_bits :
    gives .gfmul { running .gfmul with opa := 0xFFFFFF02, opb := 0xABCDEF80 } (fun t => t.res == 0x1D) = true := by
  decide

/-- V-GF, the whole table. -/
theorem test_gfmul_table :
    ([(0x00, 0x00, 0x00), (0x00, 0x57, 0x00), (0x01, 0xA5, 0xA5), (0xA5, 0x01, 0xA5), (0x02, 0x02, 0x04),
      (0x02, 0x80, 0x1D), (0x80, 0x02, 0x1D), (0x80, 0x80, 0x13), (0x02, 0x8E, 0x01), (0x57, 0x13, 0xE0),
      (0x13, 0x57, 0xE0), (0xFF, 0xFF, 0xE2), (0x53, 0xCA, 0x8F), (0x0E, 0x8D, 0x15), (0x06, 0xC3, 0xB0),
      (0x0A, 0xFF, 0x48)] : List (Byte × Byte × Byte)).all (fun v => gfmul v.1 v.2.1 == v.2.2) = true := by
  decide

theorem test_sbox0 :
    gives .sbox0 { running .sbox0 with opa := 0x123456A5 } (fun t => t.res == 0x8D) = true := by decide

theorem test_sbox1 :
    gives .sbox1 { running .sbox1 with opa := 0x123456A5 } (fun t => t.res == 0x70) = true := by decide

/-- V-SBOX, the whole table. -/
theorem test_sbox_table :
    ([(0x00, 0x57, 0x6C), (0x01, 0x49, 0xDA), (0x0F, 0x1C, 0xD9), (0x10, 0x28, 0xBF), (0x45, 0x00, 0xA7),
      (0x5A, 0xFA, 0x69), (0x80, 0xCD, 0x55), (0xA5, 0x8D, 0x70), (0xC9, 0xD5, 0x00), (0xFE, 0x7D, 0x95),
      (0xFF, 0x8E, 0x1D)] : List (Byte × Byte × Byte)).all
      (fun v => sbox0 v.1 == v.2.1 && sbox1 v.1 == v.2.2) = true := by decide

theorem test_mix0 :
    gives .mix0 { running .mix0 with opa := 0x01020304 } (fun t => t.res == 0x111A030C) = true ∧
      gives .mix0 { running .mix0 with opa := 0x57A3C1E9 } (fun t => t.res == 0x6332A22F) = true := by
  decide +kernel

theorem test_mix1 :
    gives .mix1 { running .mix1 with opa := 0x01020304 } (fun t => t.res == 0x3F1C3512) = true ∧
      gives .mix1 { running .mix1 with opa := 0x57A3C1E9 } (fun t => t.res == 0x6D375ED8) = true := by
  decide +kernel

theorem test_f0 :
    gives .f0 { running .f0 with opa := 0xF3E6CEF9, opb := 0x00010203 } (fun t => t.res == 0x547A3193) = true ∧
      gives .f0 { running .f0 with opa := 0xDEADBEEF, opb := 0x01234567 } (fun t => t.res == 0xC7229259) = true := by
  decide +kernel

theorem test_f1 :
    gives .f1 { running .f1 with opa := 0xF3E6CEF9, opb := 0x00010203 } (fun t => t.res == 0x0C80E12E) = true ∧
      gives .f1 { running .f1 with opa := 0xDEADBEEF, opb := 0x01234567 } (fun t => t.res == 0x992EBF75) = true := by
  decide +kernel

theorem test_sigma :
    gives .sigma { running .sigma with din := ⟨0x01234567, 0x89ABCDEF, 0xFEDCBA98, 0x76543210⟩ }
      (fun t => t.dout == ⟨0x91A2B3C4, 0xD5E6F790, 0x01FDB975, 0x30ECA864⟩) = true := by decide +kernel

theorem test_sigma_single_bits :
    sigma ⟨0x80000000, 0, 0, 0⟩ = ⟨0, 0, 0x80000000, 0⟩ ∧ sigma ⟨0, 0, 0, 1⟩ = ⟨0, 1, 0, 0⟩ ∧
    sigma ⟨0, 0, 0x80, 0⟩ = ⟨0, 0, 1, 0⟩ ∧ sigma ⟨0, 0x80, 0, 0⟩ = ⟨0, 0x4000, 0, 0⟩ ∧
    sigma ⟨0xFE000000, 0, 0, 0x7F⟩ = ⟨0, 0x7F, 0xFE000000, 0⟩ := by decide +kernel

theorem test_ksexp :
    gives .ksexp { running .ksexp with din := key1 }
      (fun t => t.dout == ⟨0x8F89A61B, 0x9DB9D0F3, 0x93E65627, 0xDA0D027E⟩) = true ∧
    gives .ksexp { running .ksexp with din := ones }
      (fun t => t.dout == ⟨0xA2CF1C9D, 0x37CDDDB2, 0x2792ECE0, 0xA74A41C4⟩) = true := by decide +kernel

/-- V-KS1. -/
theorem test_setkey_ks1 :
    gives .setkey { running .setkey with key := key1 } (fun t =>
      t.keyv && t.wk == key1 && t.ksl == ⟨0x8F89A61B, 0x9DB9D0F3, 0x93E65627, 0xDA0D027E⟩ && t.rk.toList ==
        [0xF3E6CEF9, 0x8DF75E38, 0x41C06256, 0x640AC51B, 0x6A27E20A, 0x5A791B90, 0xE8C528DC, 0x00336EA3,
         0x59CD17C4, 0x28565583, 0x312A37CC, 0xC08ABD77, 0x7E8E7EEC, 0x8BE7E949, 0xD3F463D6, 0xA0AAD6AA,
         0xE75EB039, 0x0D657EB9, 0x018002E2, 0x9117D009, 0x9F98D11E, 0xBABEE8CF, 0xB0369EFA, 0xD3AAEF0D,
         0x3438F93B, 0xF9CEA4A0, 0x68DF9029, 0xB869B4A7, 0x24D6406D, 0xE74BC550, 0x41C28193, 0x16DE4795,
         0xA34A20F5, 0x33265D14, 0xB19D0554, 0x5142F434]) = true := by decide +kernel

/-- V-KS3. -/
theorem test_setkey_ks3 :
    gives .setkey { running .setkey with key := plain1 } (fun t =>
      t.ksl == ⟨0x59266198, 0x5C6E3DE9, 0xC366295C, 0xF202422C⟩ && roundKey t.rk 4 == 0xC22BFC25 &&
        roundKey t.rk 31 == 0x2304F0DA && roundKey t.rk 35 == 0x4F571F64) = true := by decide +kernel

theorem test_gfnf :
    gives .gfnf { keyedRunning .gfnf key1 with din := plain1 }
      (fun t => t.dout == ⟨0xFF67AC7D, 0xDE5F6CC4, 0x6FF39C8F, 0xED1BAFFB⟩) = true ∧
    gives .gfnf { keyedRunning .gfnf ones with din := ones }
      (fun t => t.dout == ⟨0x87FF13F9, 0x119CEE70, 0x19C8C5E6, 0xEAE5A00E⟩) = true := by decide +kernel

theorem test_gfni :
    gives .gfni { keyedRunning .gfni key1 with din := plain1 }
      (fun t => t.dout == ⟨0x9F9DA88C, 0x37AAE262, 0x7F050F6B, 0x9B2320EC⟩) = true ∧
    gives .gfni { keyedRunning .gfni key1 with din := ⟨0xFF67AC7D, 0xDE5F6CC4, 0x6FF39C8F, 0xED1BAFFB⟩ }
      (fun t => t.dout == plain1) = true := by decide +kernel

/-- V-KAT, and V-ENC row 4. -/
theorem test_enc :
    gives .enc { keyedRunning .enc key1 with din := plain1 } (fun t => t.dout == cipher1) = true ∧
    gives .enc { keyedRunning .enc plain1 with din := key1 }
      (fun t => t.dout == ⟨0xA259F3E3, 0x8B7E3C70, 0xBD15A7E7, 0x8BEBD0B7⟩) = true := by decide +kernel

theorem test_dec :
    gives .dec { keyedRunning .dec key1 with din := cipher1 } (fun t => t.dout == plain1) = true ∧
    gives .dec { keyedRunning .dec key1 with din := plain1 }
      (fun t => t.dout == ⟨0x5B8C5F28, 0x5EEA89A0, 0x839197E7, 0x76E08C82⟩) = true := by decide +kernel

/-- 45_hash.md R180, example. -/
theorem test_hinit :
    gives .hinit { running .hinit with hst := ⟨0x31BC9A8F, 0x2E9C2D85, 0xAD17EC4D, 0x3331BF6C⟩ }
      (fun t => decide (t = { State.reset with pend := .hinit, done := true })) = true := by decide

/-- V-HBLK row 3: the new HST differs from the cipher output, and KEY is replaced. -/
theorem test_hblk :
    gives .hblk { running .hblk with din := key1, hst := plain1 } (fun t =>
      t.hst == ⟨0xDE2AF0FE, 0x9F71ACCA, 0xF9208F5E, 0x49999AF2⟩ && t.dout == t.hst && t.key == key1 &&
        t.wk == key1 && roundKey t.rk 35 == 0x5142F434 && t.keyv && !t.busy && t.done) = true := by
  decide +kernel

theorem test_hblk_second_block :
    gives .hblk { running .hblk with
      din := ⟨0x80000000, 0, 0, 0⟩
      hst := ⟨0x4A4B8D93, 0x8EF5D62D, 0x7F05918B, 0x7B843098⟩ }
      (fun t => t.hst == ⟨0x68F14B07, 0xBAB61DF2, 0x69F3702C, 0x3D48AE97⟩) = true := by decide +kernel

theorem test_srst :
    gives .srst { keyedRunning .enc key1 with errIll := true, errIE := true } (fun t =>
      decide (t = State.reset)) = true := by decide +kernel

/-! ## Issue outcomes and the register space (V-CTL) -/

/-- BUSY = 0: from STATUS, the word written, then CMD, STATUS after. -/
theorem test_issue_outcomes :
    ([(0x00, 0x22, 0x22, 0x10), (0x04, 0x22, 0x22, 0x05), (0x04, 0x122, 0x122, 0x0C), (0x00, 0x122, 0x122, 0x08),
      (0x04, 0x08, 0x08, 0x0C), (0x00, 0xFE, 0xFE, 0x08), (0x04, 0x1FF, 0x1FF, 0x0C), (0x04, 0x12, 0x12, 0x01),
      (0x04, 0x31, 0x31, 0x01), (0x00, 0x31, 0x31, 0x01), (0x06, 0x00, 0x00, 0x05), (0x3E, 0xFF, 0x00, 0x00)] :
      List (Nat × Word × Word × Word)).all (fun v =>
        gives (.wr 0x01 v.2.1) (withStatus v.1) (fun t => t.cmd == v.2.2.1 && statusWord t == v.2.2.2)) = true := by
  decide

/-- BUSY = 1: a word is dropped with ERR_BUSY and CMD unchanged, and the SRST word resets. -/
theorem test_issue_while_busy :
    gives (.wr 0x01 0x25) { running .hinit with cmd := 0x30 }
      (fun t => t.cmd == 0x30 && statusWord t == 0x21 && t.pend == .hinit) = true ∧
    gives (.wr 0x01 0xFF) { running .hinit with cmd := 0x30 } (fun t => decide (t = State.reset)) = true := by
  decide

theorem test_status_is_write_one_to_clear :
    ([(0x3E, 0x08, 0x36), (0x3E, 0xFFFFFFFF, 0x04), (0x3E, 0x05, 0x3E), (0x3E, 0x3A, 0x04)] :
      List (Nat × Word × Word)).all (fun v =>
        gives (.wr 0x02 v.2.1) (withStatus v.1) (fun t => statusWord t == v.2.2)) = true := by decide

theorem test_irq_follows :
    irq { withStatus 0x10 with errIE := true } = true ∧ irq { withStatus 0x10 with doneIE := true } = false ∧
      irq { withStatus 0x02 with doneIE := true } = true ∧ irq { withStatus 0x04 with doneIE := true, errIE := true } = false := by
  decide

theorem test_rd_id_and_reserved :
    gives (.rd 0x00) State.reset (fun t => t.rdata == 0x4E535531) = true ∧
      gives (.rd 0x04) { State.reset with rdata := 7 } (fun t => t.rdata == 0) = true := by decide

/-- 10_state.md R21: each index reads its own register, on a state whose registers all differ. -/
theorem test_rd_every_register :
    ([(0x01, 0xC1), (0x08, 0xA0), (0x09, 0xA1), (0x0A, 0xA2), (0x0B, 0xA3), (0x0C, 0xB0), (0x0D, 0xB1), (0x0E, 0xB2),
      (0x0F, 0xB3), (0x10, 0xD0), (0x11, 0xD1), (0x12, 0xD2), (0x13, 0xD3), (0x14, 0xE0), (0x15, 0xE1),
      (0x16, 0xE2), (0x17, 0xE3), (0x18, 0x1A), (0x19, 0x1B), (0x1A, 0x1E), (0x20, 0xF0), (0x21, 0xF1),
      (0x22, 0xF2), (0x23, 0xF3), (0x24, 0x50), (0x25, 0x51), (0x26, 0x52), (0x27, 0x53), (0x40, 0x600),
      (0x41, 0x601), (0x63, 0x623)] : List (BitVec 8 × Word)).all (fun v =>
        gives (.rd v.1) { State.reset with
          cmd := 0xC1
          key := ⟨0xA0, 0xA1, 0xA2, 0xA3⟩
          din := ⟨0xB0, 0xB1, 0xB2, 0xB3⟩
          dout := ⟨0xD0, 0xD1, 0xD2, 0xD3⟩
          hst := ⟨0xE0, 0xE1, 0xE2, 0xE3⟩
          opa := 0x1A
          opb := 0x1B
          res := 0x1E
          wk := ⟨0xF0, 0xF1, 0xF2, 0xF3⟩
          ksl := ⟨0x50, 0x51, 0x52, 0x53⟩
          rk := Vector.ofFn fun i => BitVec.ofNat 32 (0x600 + i) } (fun t => t.rdata == v.2)) = true := by
  decide +kernel

/-- Every write to a read-only or reserved index is ignored, and sets no error. -/
theorem test_wr_ignored :
    (∀ a : BitVec 8, (readOnlyIndex a || reservedIndex a) = true →
      gives (.wr a 0xFFFFFFFF) (running .enc) (fun t => decide (t = running .enc)) = true) := by decide +kernel

/-- The race of program P6: a write to DIN0 after ENC's issue is taken or dropped, by ENC's latency. -/
theorem test_write_races_with_completion :
    gives (.wr 0x0C 0x12345678) { running .enc with lat := 3, keyv := true }
      (fun t => t.din.w0 == 0 && statusWord t == 0x25) = true ∧
    gives (.wr 0x0C 0x12345678) { withStatus 0x06 with pend := .enc }
      (fun t => t.din.w0 == 0x12345678 && statusWord t == 0x06) = true := by decide

/-! ## Steps -/

theorem test_step_runs_the_placed_word :
    stepGives (State.reset.withFetchWord 32 0x22) (fun t => t.errNoKey && t.cmd == 0x22) = true ∧
      stepGives (State.reset.withFetchWord 48 0x00000000000) (fun t => t.rdata == 0x4E535531) = true ∧
      stepGives (State.reset.withFetchWord 48 0x118DEADBEEF) (fun t => t.opa == 0xDEADBEEF) = true := by decide

theorem test_step_completes_before_the_host :
    stepGives { running .hinit with hst := plain1, host := [.poll] }
      (fun t => t.hst == .zero && t.done && !t.busy && t.host == [.poll]) = true := by decide

/-- A poll goes on while BUSY = 1 and ends after it (30_encoding.md R88). -/
theorem test_step_poll :
    stepGives { running .hinit with lat := 1, host := [.poll] }
      (fun t => t.rdata == 0x1 && t.host == [.poll] && t.lat == 0) = true ∧
    stepGives { withStatus 0x02 with host := [.poll] } (fun t => t.rdata == 0x2 && t.host == []) = true := by
  decide

/-- 70_reset_and_hazards.md R241: with rst = 1 the transaction presented is ignored. -/
theorem test_step_rst_wins :
    stepGives { withStatus 0x3E with opa := 9, host := [.cycle ⟨true, true, true, 0x18, 5⟩] }
      (fun t => t.opa == 0 && statusWord t == 0 && t.host == []) = true := by decide

theorem test_step_idle_cycle :
    stepGives { running .hinit with lat := 2, host := [.cycle ⟨false, false, true, 0x18, 5⟩] }
      (fun t => t.opa == 0 && t.lat == 1 && t.host == []) = true := by decide

/-! ## The tables and the host's side -/

/-- 41_sbox.md R110: S0 is its construction from the 4-bit tables, and R114: both tables are permutations. -/
theorem test_sbox0_is_built : ∀ x : Byte, sbox0 x = sbox0Built x := by decide +kernel

theorem test_sboxes_are_permutations :
    (((List.range 256).map fun n => sbox0 (BitVec.ofNat 8 n)).eraseDups.length = 256) ∧
      (((List.range 256).map fun n => sbox1 (BitVec.ofNat 8 n)).eraseDups.length = 256) := by decide +kernel

/-- A GF(2)-linear map of bytes by the images of bits 0 to 7. -/
def linear (images : List Byte) (x : Byte) : Byte :=
  (List.range 8).foldl (fun acc i => if x.getLsbD i then acc ^^^ images.getD i 0 else acc) 0

/-- Inversion as the 254th power. -/
def inverse (x : Byte) : Byte :=
  let sq := fun y => gfmul y y
  let x2 := sq x; let x4 := sq x2; let x8 := sq x4; let x16 := sq x8
  let x32 := sq x16; let x64 := sq x32; let x128 := sq x64
  gfmul x2 (gfmul x4 (gfmul x8 (gfmul x16 (gfmul x32 (gfmul x64 x128)))))

/-- 41_sbox.md R114, item 2: S1 is an affine map, inversion, and an affine map. -/
theorem test_sbox1_structure :
    ∀ x : Byte, sbox1 x =
      linear [0xE3, 0x6E, 0xC5, 0x91, 0x25, 0x38, 0x8B, 0x47]
        (inverse (linear [0x01, 0x29, 0x30, 0xC6, 0x6C, 0x58, 0xA6, 0x42] x ^^^ 0x25)) ^^^ 0x69 := by
  decide +kernel

/-- 43_key_schedule.md R141. -/
theorem test_constants_are_generated : conGenerated 30 0x428A = (List.range 60).map con := by decide +kernel

/-- V-TRACE, the first and the last round. -/
theorem test_trace :
    forwardRound 0xF3E6CEF9 0x8DF75E38 ⟨0x00010203, 0xFBEBDBCB, 0x08090A0B, 0xB7A79787⟩ =
      ⟨0xAF91EA58, 0x08090A0B, 0x1C56B7F7, 0x00010203⟩ ∧
    forwardRound 0xB19D0554 0x5142F434 ⟨0xDE2BF2FD, 0x4065C77B, 0xF1298555, 0x64664DD0⟩ =
      ⟨0xEC12FF89, 0xF1298555, 0x76B685FD, 0xDE2BF2FD⟩ := by decide +kernel

/-- V-PAD. -/
theorem test_pad_lengths :
    ([(0, 16), (3, 16), (15, 16), (16, 32), (17, 32)] : List (Nat × Nat)).all
      (fun v => (pad (List.replicate v.1 0xAA)).length == v.2) = true ∧
    pad [0x61, 0x62, 0x63] = [0x61, 0x62, 0x63, 0x80, 0, 0, 0, 0, 0, 0, 0, 0, 0, 0, 0, 0] := by decide

/-- V-HASH: "abc" and the 32 bytes 00 to 1F. -/
theorem test_hash_abc :
    Machine.hash [0x61, 0x62, 0x63] =
      [0x9B, 0x63, 0xBD, 0xFF, 0x8D, 0xFA, 0x0B, 0x68, 0x34, 0xA3, 0x1C, 0xBB, 0x91, 0x38, 0x01, 0x4A] := by
  decide +kernel

theorem test_hash_three_blocks :
    Machine.hash ((List.range 32).map (BitVec.ofNat 8)) =
      [0x22, 0x09, 0x9F, 0x07, 0x44, 0xFD, 0xD1, 0xC1, 0x7E, 0xCC, 0xED, 0xB1, 0x22, 0x27, 0x21, 0xEE] := by
  decide +kernel

/-- 95_test_vectors.md P1: the transactions of `ldq` and `run`, and `clr`. -/
theorem test_line_expansions :
    expandProgram [.ldq .key 0xFFEEDDCCBBAA99887766554433221100, .run .setkey, .clr, .rd .res] =
      [.cycle ⟨false, true, true, 0x08, 0xFFEEDDCC⟩, .cycle ⟨false, true, true, 0x09, 0xBBAA9988⟩,
       .cycle ⟨false, true, true, 0x0A, 0x77665544⟩, .cycle ⟨false, true, true, 0x0B, 0x33221100⟩,
       .cycle ⟨false, true, true, 0x01, 0x12⟩, .poll, .cycle ⟨false, true, true, 0x02, 0x3A⟩,
       .cycle ⟨false, true, false, 0x1A, 0⟩] := by decide

/-- 95_test_vectors.md P3, the program of the hash of "abc". -/
theorem test_hash_program :
    hashProgram [0x61, 0x62, 0x63] =
      [.run .hinit, .ldq .din 0x61626380000000000000000000000000, .run .hblk, .rdq .hst] := by decide

/-! ## Witnesses: states and operands that meet the hypotheses of the obligations, clause by clause -/

theorem witness_IllegalWordsAreRejected :
    (0x08 : Word).toNat ∉ legalWords ∧ (0xFE : Word).toNat ∉ legalWords ∧ (0x122 : Word).toNat ∉ legalWords ∧
      State.reset.busy = false ∧ (running .nop).busy = true := by decide

theorem witness_DecodeOfEncodeIsTheInstruction :
    Instr.hblk.wellFormed = true ∧ (Instr.rd 0xFF).wellFormed = true ∧
      (Instr.wr 0xFF 0xFFFFFFFF).wellFormed = true := by decide

theorem witness_EncodeOfDecodedCanonicalWord :
    ((CodeWord.cmd32 0xFF).canonical = true ∧ decode (.cmd32 0xFF) = .ok .srst) ∧
    ((CodeWord.hostbus 0x0FF00000000).canonical = true ∧ decode (.hostbus 0x0FF00000000) = .ok (.rd 0xFF)) ∧
    ((CodeWord.hostbus 0x1FFFFFFFFFF).canonical = true ∧
      decode (.hostbus 0x1FFFFFFFFFF) = .ok (.wr 0xFF 0xFFFFFFFF)) := by decide

theorem witness_StepRunsTheDecodedInstruction :
    (completing (presenting (writePins 0x18 5) State.reset) = false ∧
      (writePins 0x18 5).rst = false ∧ (writePins 0x18 5).sel = true ∧
      decode (.hostbus (writePins 0x18 5).word) = .ok (.wr 0x18 5)) ∧
    (completing (presenting (Pins.issue 0x31) State.reset) = false ∧ decode (.cmd32 0x31) = .ok .hblk) ∧
    completing (running .enc) = true ∧
    decodeTableWord 32 0xFF = some .srst ∧ decodeTableWord 48 0x1FFFFFFFFFF = some (.wr 0xFF 0xFFFFFFFF) := by
  decide

theorem witness_CommandIsOneWriteOfItsWord :
    ¬due .nop State.reset ∧ ¬due .enc { running .enc with lat := 1 } ∧ ¬due .enc (running .dec) := by decide

theorem witness_IssueDecidesInOrder :
    ((running .enc).busy = true ∧ (0xFE : Word) ≠ 0x000000FF) ∧
    (State.reset.busy = false ∧ (0x32 : Word).toNat ∉ legalWords) ∧
    ((withStatus 0x3A).busy = false ∧ (0x20 : Word).toNat ∈ [0x20, 0x21, 0x22, 0x23] ∧
      (withStatus 0x3A).keyv = false) ∧
    ((withStatus 0x3E).busy = false ∧ (0x23 : Word) = Opcode.dec.code.setWidth 32 ∧ Opcode.dec ≠ .srst ∧
      (withStatus 0x3E).keyv = true) ∧
    ((0x31 : Word) = Opcode.hblk.code.setWidth 32 ∧ (0x31 : Word).toNat ∉ [0x20, 0x21, 0x22, 0x23]) := by decide

theorem witness_CipherCommandsNeedAKey :
    ((withStatus 0x02).busy = false ∧ (withStatus 0x02).keyv = false) ∧
    ((withStatus 0x02).errNoKey = false ∧ gives .dec (withStatus 0x02) (fun t => t.errNoKey) = true) ∧
    gives (.wr 0x01 0x20) (withStatus 0x02) (fun t => t.errNoKey) = true ∧
    ((presenting (Pins.issue 0x23) State.reset).errNoKey = false ∧
      stepGives (presenting (Pins.issue 0x23) State.reset) (fun t => t.errNoKey) = true) := by decide

theorem witness_WritesToARunningCommandAreDropped :
    (running .hblk).busy = true ∧ inputIndex 0x08 = true ∧ inputIndex 0x0F = true ∧ inputIndex 0x14 = true ∧
      inputIndex 0x19 = true ∧ (0 : Word) ≠ 0x000000FF ∧ readOnlyIndex 0x00 = true ∧ readOnlyIndex 0x63 = true ∧
      reservedIndex 0x04 = true ∧ reservedIndex 0xFF = true := by decide

/-- The four kinds of index part the map, so that no two clauses of the write and read statements meet. -/
theorem witness_index_kinds :
    ∀ a : BitVec 8,
      (reservedIndex a).toNat + (readOnlyIndex a).toNat + (inputIndex a).toNat +
        (a == 0x01 || a == 0x02 || a == 0x03).toNat = 1 := by decide +kernel

theorem witness_ReadReturnsTheRegister :
    (reservedIndex 0x04 = true ∧ reservedIndex 0x1B = true ∧ reservedIndex 0x28 = true ∧
      reservedIndex 0x3F = true ∧ reservedIndex 0x64 = true ∧ reservedIndex 0xFF = true) ∧
    (regAt 0x63 = some (.rk 35) ∧ (running .hblk).busy = true ∧ writes (running .hblk).pend (.rk 35) = true) ∧
    (regAt 0x14 = some (.hst 0) ∧ ¬((running .enc).busy = true ∧ writes (running .enc).pend (.hst 0) = true)) ∧
    (regAt 0x10 = some (.dout 0) ∧ ¬(State.reset.busy = true ∧ writes State.reset.pend (.dout 0) = true)) ∧
    ((running .hblk).busy = true ∧ (running .hblk).pend ∈ [Opcode.setkey, .hblk]) ∧
    (¬((running .enc).busy = true ∧ (running .enc).pend ∈ [Opcode.setkey, .hblk])) ∧
    (¬(State.reset.busy = true ∧ State.reset.pend ∈ [Opcode.hblk])) := by decide

theorem witness_WriteActsByRegister :
    ((running .nop).busy = true ∧ inputIndex 0x08 = true ∧ inputIndex 0x19 = true) ∧ State.reset.busy = false ∧
      readOnlyIndex 0x10 = true ∧ readOnlyIndex 0x27 = true ∧ reservedIndex 0x07 = true := by decide

theorem witness_IdIsTheOneHardwiredRegister : Reg.rk 35 ≠ .ident ∧ Reg.cmd ≠ .ident := by decide

/-- From STATUS with all error bits, a write to STATUS that clears one of them, and one that clears none. -/
theorem witness_ErrorBitsAreSticky :
    (PendingAccepted (presenting (writePins 0x02 0x08) (withStatus 0x3E)) ∧
      stepGives (presenting (writePins 0x02 0x08) (withStatus 0x3E))
        (fun t => !t.errIll && t.errNoKey && t.errBusy) = true) ∧
    (PendingAccepted { running .hinit with errIll := true, errNoKey := true, errBusy := true } ∧
      stepGives { running .hinit with errIll := true, errNoKey := true, errBusy := true }
        (fun t => t.errIll && t.errNoKey && t.errBusy) = true) ∧
    (Opcode.enc ≠ .srst ∧ (withStatus 0x3C).busy = false ∧
      (needsKey .enc = true → (withStatus 0x3C).keyv = true)) ∧
    ((withStatus 0x09).errIll = true ∧ (withStatus 0x09).busy = true) := by decide

theorem witness_BusyAndDoneChangeOnlyAsTabled :
    (PendingAccepted (presenting (Pins.issue 0x10) (withStatus 0x02)) ∧
      stepGives (presenting (Pins.issue 0x10) (withStatus 0x02)) (fun t => t.busy && !t.done) = true) ∧
    (PendingAccepted (running .nop) ∧ stepGives (running .nop) (fun t => !t.busy && t.done) = true) ∧
    (PendingAccepted (presenting (writePins 0x02 0x02) (withStatus 0x02)) ∧
      stepGives (presenting (writePins 0x02 0x02) (withStatus 0x02)) (fun t => !t.done) = true) := by decide

theorem witness_KeyvChangesOnlyAsTabled :
    (PendingAccepted (running .setkey) ∧ stepGives (running .setkey) (fun t => t.keyv) = true) ∧
    (PendingAccepted (presenting (writePins 0x0B 1) (withStatus 0x04)) ∧
      stepGives (presenting (writePins 0x0B 1) (withStatus 0x04)) (fun t => !t.keyv) = true) ∧
    (PendingAccepted (presenting (Pins.issue 0x31) (withStatus 0x04)) ∧
      stepGives (presenting (Pins.issue 0x31) (withStatus 0x04)) (fun t => !t.keyv) = true) := by decide +kernel

/-- The premise of the four families of Complete steps, of each of their clauses. -/
theorem witness_due (op : Opcode) : due op (running op) := ⟨rfl, rfl, rfl⟩

theorem witness_ResetLeavesEveryRegisterAtItsValue :
    completing (presenting ⟨true, true, true, 0x18, 5⟩ { running .enc with lat := 1 }) = false ∧
      completing (presenting ⟨true, true, true, 0x18, 5⟩ (running .enc)) = true ∧
      (Pins.mk true true true 0x18 5).rst = true := by decide

theorem witness_CompleteStepWritesOnlyItsWriteSet :
    completing (running .gfmul) = true ∧ (running .gfmul).pend ≠ .srst ∧
      stepGives (running .gfmul) (fun t => t.done) = true ∧ Reg.rk 35 ≠ .status ∧
      writes .gfmul (.rk 35) = false ∧ writes .gfmul .opa = false := by decide

/-- Two states that differ in registers and bits that the command does not read. -/
theorem witness_ResultDependsOnlyOnTheRegistersRead :
    (due .gfmul { running .gfmul with opa := 0x57, opb := 0x13 } ∧
      due .gfmul { running .gfmul with opa := 0xFFFFFF57, opb := 0x80000013, key := ones, res := 7 } ∧
      readsAgree .gfmul { running .gfmul with opa := 0x57, opb := 0x13 }
        { running .gfmul with opa := 0xFFFFFF57, opb := 0x80000013, key := ones, res := 7 } ∧
      writes .gfmul .res = true) ∧
    (readsAgree .hblk { running .hblk with din := key1 } { running .hblk with din := key1, key := ones, rdata := 9 } ∧
      writes .hblk (.rk 35) = true) :=
  ⟨⟨by decide, by decide, ⟨by decide, by decide⟩, rfl⟩, ⟨rfl, rfl⟩, rfl⟩

/-- A state with a valid context, a cipher command running and a poll to come meets the invariant, and so
does its next step. -/
theorem witness_StepKeepsTheInvariant :
    MachineInv { keyedRunning .enc key1 with lat := 2, host := [.poll] } ∧
    stepGives { keyedRunning .enc key1 with lat := 2, host := [.poll] } (fun t => decide (MachineInv t)) = true ∧
    stepGives (presenting (writePins 0x08 0) { keyedRunning .enc key1 with busy := false })
      (fun t => decide (MachineInv t) && !t.keyv) = true := by decide +kernel

theorem witness_RunningCommandIsFrozen :
    { running .enc with lat := 1 }.busy = true ∧ completing { running .enc with lat := 1 } = false ∧
      stepGives (presenting (writePins 0x0C 5) { running .enc with lat := 1 })
        (fun t => t.busy && t.errBusy && t.din == .zero) = true := by decide

theorem witness_RunningCommandCompletes :
    { running .enc with lat := 2, host := [.cycle (writePins 0x01 0xFE)] }.busy = true ∧
      ∀ l ∈ [HostLine.cycle (writePins 0x01 0xFE)], l.resets = false := by decide

theorem witness_RunOfACommandEndsInItsResult :
    (Opcode.dec ≠ .srst ∧ (withStatus 0x3E).busy = false ∧
      (needsKey .dec = true → (withStatus 0x3E).keyv = true)) ∧
    (Opcode.nop ≠ .srst ∧ State.reset.busy = false ∧ (needsKey .nop = true → State.reset.keyv = true)) := by decide

theorem witness_GfmulIsAFieldProduct : (0x8E : Byte) ≠ 0 ∧ 0 < 1 ∧ 254 < 255 := by decide

theorem witness_SigmaHasOrder180 : 0 < 1 ∧ 1 < 180 ∧ 0 < 179 ∧ 179 < 180 := by decide

/-- DEC running on what ENC leaves in DOUT, and the other way round. -/
theorem witness_DecAndEncUndoEachOther :
    let s := { keyedRunning .enc key1 with din := plain1 }
    let u := { keyedRunning .dec key1 with din := cipher1 }
    (u.wk = s.wk ∧ u.rk = s.rk ∧ u.din = (after .enc s).dout ∧ due .enc s ∧ due .dec u) ∧
      (s.din = (after .dec u).dout) := by decide +kernel

theorem witness_DecAndEncUndoEachOther_next :
    (exec .enc { keyedRunning .enc key1 with din := plain1 } =
      .next (after .enc { keyedRunning .enc key1 with din := plain1 })) ∧
    (exec .dec { keyedRunning .dec key1 with din := cipher1 } =
      .next (after .dec { keyedRunning .dec key1 with din := cipher1 })) := ⟨rfl, rfl⟩

/-- HBLK, SETKEY and ENC in three states that fit together. -/
theorem witness_HblkIsSetkeyThenEncThenFeedback :
    let s := { running .hblk with din := key1, hst := plain1 }
    let k := { running .setkey with key := key1 }
    let k' := after .setkey k
    let e := { running .enc with wk := k'.wk, rk := k'.rk, din := plain1 }
    due .hblk s ∧ due .setkey k ∧ k.key = s.din ∧ exec .setkey k = .next k' ∧ due .enc e ∧ e.wk = k'.wk ∧
      e.rk = k'.rk ∧ e.din = s.hst ∧ exec .enc e = .next (after .enc e) :=
  ⟨⟨rfl, rfl, rfl⟩, ⟨rfl, rfl, rfl⟩, rfl, rfl, ⟨rfl, rfl, rfl⟩, rfl, rfl, rfl, rfl⟩

theorem witness_PaddingReachesTheNextBlock :
    (List.replicate 16 (0 : Byte)).length < 32 ∧ 32 % 16 = 0 ∧ ([] : List Byte).length < 16 := by decide

theorem witness_LoadAndStoreAreBigEndian : (List.replicate 16 (0xAB : Byte)).length = 16 := by decide

end Sys2Proof.Tests
end

section
/-! SUPPORT. 00_scope.md R14: the words and bytes of a block are one big-endian view. A byte of the string
is named by its word `j` and its place `k` in that word, as R14 does. -/

namespace Sys2Proof

/-- A byte inside word `j` is the byte of the 128-bit view that stands `3 - j` words higher. -/
theorem Block.bits_extractLsb' (x : Block) (j : Fin 4) {m : Nat} (hm : m + 8 ≤ 32) :
    x.bits.extractLsb' (32 * (3 - j) + m) 8 = (x.word j).extractLsb' m 8 := by
  unfold Block.bits
  match j with
  | 0 =>
    rw [BitVec.extractLsb'_append_eq_of_le (by simp)]
    exact congrArg (x.w0.extractLsb' · 8) (by simp)
  | 1 =>
    rw [BitVec.extractLsb'_append_eq_of_add_le (by simp; omega), BitVec.extractLsb'_append_eq_of_le (by simp)]
    exact congrArg (x.w1.extractLsb' · 8) (by simp)
  | 2 =>
    rw [BitVec.extractLsb'_append_eq_of_add_le (by simp; omega),
      BitVec.extractLsb'_append_eq_of_add_le (by simp; omega), BitVec.extractLsb'_append_eq_of_le (by simp)]
    exact congrArg (x.w2.extractLsb' · 8) (by simp)
  | 3 =>
    rw [BitVec.extractLsb'_append_eq_of_add_le (by simp; omega),
      BitVec.extractLsb'_append_eq_of_add_le (by simp; omega),
      BitVec.extractLsb'_append_eq_of_add_le (by simp; omega)]
    exact congrArg (x.w3.extractLsb' · 8) (by simp)

end Sys2Proof

namespace Sys2Proof.Machine

/-- `word(bytes(W))` is `W`. -/
theorem wordOf_byteOf (w : Word) : wordOf (byteOf w 0) (byteOf w 1) (byteOf w 2) (byteOf w 3) = w := by
  unfold wordOf byteOf
  rw [BitVec.extractLsb'_append_extractLsb'_eq_extractLsb' (by rfl),
    BitVec.extractLsb'_append_extractLsb'_eq_extractLsb' (by rfl),
    BitVec.extractLsb'_append_extractLsb'_eq_extractLsb' (by rfl)]
  exact BitVec.extractLsb'_eq_self

/-- `bytes(word(b0, b1, b2, b3))` is `(b0, b1, b2, b3)`. -/
theorem byteOf_wordOf (b0 b1 b2 b3 : Byte) (k : Fin 4) :
    byteOf (wordOf b0 b1 b2 b3) k = [b0, b1, b2, b3].get k := by
  unfold byteOf wordOf
  match k with
  | 0 => exact BitVec.extractLsb'_append_eq_left
  | 1 =>
    rw [BitVec.extractLsb'_append_eq_of_add_le (by decide)]
    exact BitVec.extractLsb'_append_eq_left
  | 2 =>
    rw [BitVec.extractLsb'_append_eq_of_add_le (by decide), BitVec.extractLsb'_append_eq_of_add_le (by decide)]
    exact BitVec.extractLsb'_append_eq_left
  | 3 =>
    rw [BitVec.extractLsb'_append_eq_of_add_le (by decide), BitVec.extractLsb'_append_eq_of_add_le (by decide)]
    exact BitVec.extractLsb'_append_eq_right

/-- Byte `4j + k` of the stored string is byte `k` of word `j`. -/
theorem storeBe_getD (x : Block) (j k : Fin 4) :
    (storeBe x).getD (4 * j + k) 0 = byteOf (x.word j) k := by
  fin_cases j <;> fin_cases k <;> rfl

/-- Word `j` of the loaded block is made of bytes `4j` to `4j + 3`. -/
theorem loadBe_word (b : List Byte) (j : Fin 4) :
    (loadBe b).word j =
      wordOf (b.getD (4 * j) 0) (b.getD (4 * j + 1) 0) (b.getD (4 * j + 2) 0) (b.getD (4 * j + 3) 0) := by
  match j with
  | 0 | 1 | 2 | 3 => rfl

/-- Byte `k` of word `j` of the loaded block is byte `4j + k` of the string. -/
theorem byteOf_loadBe_word (b : List Byte) (j k : Fin 4) :
    byteOf ((loadBe b).word j) k = b.getD (4 * j + k) 0 := by
  rw [loadBe_word, byteOf_wordOf]
  match k with
  | 0 | 1 | 2 | 3 => rfl

/-- Every index of the 16-byte string is byte `k` of word `j` for some `j` and `k`. -/
theorem exists_word_and_byte {i : Nat} (hi : i < 16) : ∃ j k : Fin 4, i = 4 * j + k :=
  ⟨⟨i / 4, by omega⟩, ⟨i % 4, by omega⟩, (Nat.div_add_mod i 4).symm⟩

theorem loadBe_storeBe (x : Block) : loadBe (storeBe x) = x := by
  refine Block.ext_words fun j => ?_
  rw [loadBe_word]
  refine Eq.trans ?_ (wordOf_byteOf (x.word j))
  congr 1
  exacts [storeBe_getD x j 0, storeBe_getD x j 1, storeBe_getD x j 2, storeBe_getD x j 3]

theorem storeBe_loadBe {b : List Byte} (hb : b.length = 16) : storeBe (loadBe b) = b := by
  refine List.ext_getElem hb.symm fun i h h' => ?_
  obtain ⟨j, k, rfl⟩ := exists_word_and_byte (hb ▸ h')
  rw [← List.getD_eq_getElem _ 0 h, ← List.getD_eq_getElem _ 0 h', storeBe_getD, byteOf_loadBe_word]

/-- Byte `i` of the string of a block is bits 127−8i to 120−8i of its 128-bit view. -/
theorem bits_extractLsb'_byte (x : Block) (i : Fin 16) :
    x.bits.extractLsb' (120 - 8 * i) 8 = (storeBe x).getD i 0 := by
  obtain ⟨j, k, hi⟩ := exists_word_and_byte i.isLt
  have hp : 120 - 8 * (4 * (j : Nat) + k) = 32 * (3 - j) + 8 * (3 - k) := by omega
  rw [hi, hp, x.bits_extractLsb' j (by omega), storeBe_getD, byteOf]

/-- Settles O42: each round trip word by word, and a byte's place in the 128-bit view from its place in its
word. -/
theorem loadAndStoreAreBigEndian : Obligations.LoadAndStoreAreBigEndian := by
  refine ⟨loadBe_storeBe, fun b hb => ⟨storeBe_loadBe hb, fun i => ?_⟩⟩
  rw [bits_extractLsb'_byte, storeBe_loadBe hb]

end Sys2Proof.Machine
end

section
/-! SUPPORT. Which instruction a step runs (00_scope.md R8, R9; 30_encoding.md R80; 46_control.md R195). -/

namespace Sys2Proof.Machine

/-- While no Complete step is due, a transaction cycle runs what its bus word decodes to. -/
theorem step_of_transaction {s : State} {p : Pins} {rest : List HostLine} (hc : completing s = false)
    (hh : s.host = .cycle p :: rest) (hr : p.rst = false) (hs : p.sel = true) :
    step s = mapNext tick (exec (decodeBus p.word) { s with host := rest }) := by
  have hm : nextMove s = .transaction (decodeBus p.word) { s with host := rest } (.cycle p) := by
    simp [nextMove, hc, hh, hr, hs]
  unfold step
  rw [hm]
  rfl

/-- A due Complete step runs the pending command. -/
theorem step_of_completing {s : State} (hc : completing s = true) : step s = exec s.pend.instr s := by
  have hm : nextMove s = .complete s.pend := by simp [nextMove, hc]
  unfold step
  rw [hm]

/-- The command that a CMD32 word decodes to is encoded by that word. -/
theorem eq_instr_of_decode_cmd32 {w : Word} {i : Instr} (h : decode (.cmd32 w) = .ok i) :
    ∃ op : Opcode, i = op.instr ∧ w = encodeCmd op := by
  cases hd : decodeCmd w with
  | ok op => exact ⟨op, by simpa [decode, hd] using h.symm, (encodeCmd_of_decodeCmd hd).symm⟩
  | bad e => simp [decode, hd] at h

/-- Where no Complete step is due, a command is a write of its word to CMD. -/
theorem exec_wr_cmd_of_decode {w : Word} {i : Instr} {s : State} (hc : completing s = false)
    (h : decode (.cmd32 w) = .ok i) : exec (.wr Reg.cmd.addr w) s = exec i s := by
  obtain ⟨op, rfl, rfl⟩ := eq_instr_of_decode_cmd32 h
  rw [exec_instr_of_not_due op fun ⟨hb, hl, _⟩ => by simp [completing, hb, hl] at hc]
  exact exec_wr_cmd _ s

/-- The pins that present an encoded instruction make the next step run it. -/
theorem step_of_ofCode {s : State} {c : CodeWord} {rest : List HostLine} {i : Instr}
    (hc : completing s = false) (hh : s.host = .cycle (Pins.ofCode c) :: rest) (hd : decode c = .ok i) :
    step s = mapNext tick (exec i { s with host := rest }) := by
  cases c with
  | cmd32 w =>
    rw [step_of_transaction hc hh rfl rfl, decodeBus_word]
    exact congrArg (mapNext tick) (exec_wr_cmd_of_decode hc hd)
  | hostbus w =>
    rw [step_of_transaction hc hh rfl rfl, decodeBus_word]
    cases hd
    rfl

/-- Pins put in front of the host list are taken by the very next step. -/
theorem completing_presentNext (p : Pins) (s : State) : completing (presentNext p s) = false := by
  rw [Bool.eq_false_iff, Ne, completing_iff]
  rintro ⟨hb, hl⟩
  by_cases hc : completing s = true
  · simp [hc] at hl
  · exact hc ((completing_iff s).2 ⟨hb, by simpa [hc] using hl⟩)

/-- What a table word decodes to is what `withFetchWord` places. -/
theorem decode_of_decodeTableWord {nbits w : Nat} {i : Instr} (h : decodeTableWord nbits w = some i) :
    decode (if nbits ≤ 32 then .cmd32 (BitVec.ofNat 32 w) else .hostbus (BitVec.ofNat 41 w)) = .ok i := by
  unfold decodeTableWord at h
  split at h
  · next c hc =>
    split at h
    · next j hd =>
      cases h
      rw [← hd]
      unfold codeWordOfTable at hc
      split_ifs at hc ⊢ <;> cases hc <;> rfl
    · cases h
  · cases h

/-- Settles O5: the bus word, the command word, the pending command and the placed word, one clause each. -/
theorem stepRunsTheDecodedInstruction : Obligations.StepRunsTheDecodedInstruction := by
  refine ⟨fun s p rest i hc hh hr hs hd => ?_, fun s w rest i hc hh hd => ?_, fun s => step_of_completing,
    fun s nbits w i hd => ?_⟩
  · rw [step_of_transaction hc hh hr hs]
    cases hd
    rfl
  · exact step_of_ofCode hc (c := .cmd32 w) hh hd
  · exact step_of_ofCode (completing_presentNext _ s) rfl (decode_of_decodeTableWord hd)

end Sys2Proof.Machine
end
section
/-! SUPPORT. A running command ends (00_scope.md R11, R12). -/

namespace Sys2Proof.Machine

/-- Every instruction goes on from every state. -/
theorem exists_exec_eq_next (i : Instr) (s : State) : ∃ t, exec i s = .next t := by
  obtain ⟨op, rfl⟩ | ⟨a, rfl⟩ | ⟨a, v, rfl⟩ := instr_cases i
  · by_cases hd : due op s
    · by_cases hs : op = .srst
      · subst hs
        exact ⟨_, rfl⟩
      · exact ⟨_, exec_instr_of_due hs hd⟩
    · exact ⟨_, exec_instr_of_not_due op hd⟩
  · exact ⟨_, rfl⟩
  · exact ⟨_, rfl⟩

/-- Every step goes on from every state. -/
theorem exists_step_eq_next (s : State) : ∃ t, step s = .next t := by
  unfold step
  cases nextMove s with
  | complete op => exact exists_exec_eq_next op.instr s
  | transaction i t line =>
    obtain ⟨u, hu⟩ := exists_exec_eq_next i t
    exact ⟨retire line u, by simp [hu]⟩
  | quiet t => exact ⟨t, rfl⟩

/-- What a host write can do while a command runs: reset the core, write STATUS or IRQEN, be dropped with
ERR_BUSY, or nothing. -/
theorem memWrite_cases_of_busy (a : BitVec 8) (v : Word) {s : State} (hb : s.busy = true) :
    (a = 0x01 ∧ v = 0x000000FF ∧ memWrite a v s = resetAll s) ∨
      memWrite a v s = writeStatus v s ∨ memWrite a v s = writeIrqen v s ∨
      memWrite a v s = raiseError .busy s ∨ memWrite a v s = s := by
  obtain ⟨ha, hm⟩ | ⟨-, hm⟩ | ⟨-, hm⟩ | ⟨-, hm⟩ | ⟨_, hn, _⟩ | ⟨_, hn, _⟩ | ⟨_, hn, _⟩ | ⟨hn, _⟩ |
    ⟨hn, _⟩ | hm := memWrite_cases a v s
  · by_cases hv : v = 0x000000FF
    · exact .inl ⟨ha, hv, by rw [hm, issue, if_pos hb, if_pos (hv.trans srst_word.symm)]⟩
    · exact .inr (.inr (.inr (.inl (by rw [hm, issue, if_pos hb, if_neg (srst_word ▸ hv)]))))
  · exact .inr (.inl hm)
  · exact .inr (.inr (.inl hm))
  · exact .inr (.inr (.inr (.inl hm)))
  iterate 5 exact absurd hb (by simp [hn])
  · exact .inr (.inr (.inr (.inr hm)))

/-- The command of `s` still runs in `t`, one step nearer to its Complete step, and the host of `t` has no
line that the host of `s` had not. -/
def RunsOn (s t : State) : Prop :=
  t.busy = true ∧ t.pend = s.pend ∧ t.lat + 1 = s.lat ∧ t.host ⊆ s.host

/-- When time passes after `u`, which still has the running command, latency and host lines of `s`, the command
is one step nearer to its end. -/
theorem runsOn_tick {s u : State} (hb : u.busy = true) (hl : s.lat ≠ 0) (hp : u.pend = s.pend)
    (hul : u.lat = s.lat) (hh : u.host ⊆ s.host) : RunsOn s (tick u) :=
  ⟨hb, hp, by simp [hb, hul]; omega, hh⟩

/-- While a command runs and is not due, a host write resets the core or leaves the command running. -/
theorem runsOn_tick_memWrite {s u : State} (a : BitVec 8) (v : Word) (hb : u.busy = true) (hl : s.lat ≠ 0)
    (hp : u.pend = s.pend) (hul : u.lat = s.lat) (hh : u.host ⊆ s.host) :
    (a = 0x01 ∧ v = 0x000000FF ∧ (tick (memWrite a v u)).busy = false) ∨ RunsOn s (tick (memWrite a v u)) := by
  obtain ⟨ha, hv, hm⟩ | hm | hm | hm | hm := memWrite_cases_of_busy a v hb <;> rw [hm]
  · exact .inl ⟨ha, hv, rfl⟩
  all_goals exact .inr (runsOn_tick (by simpa using hb) hl (by simpa using hp) (by simpa using hul)
    (by simpa using hh))

/-- A step of a running command that is not due resets the core, on a host line that says so, or brings
the command one step nearer to its end. -/
theorem step_of_running {s t : State} (hb : s.busy = true) (hl : s.lat ≠ 0) (h : step s = .next t) :
    ((∃ l ∈ s.host, l.resets = true) ∧ t.busy = false) ∨ RunsOn s t := by
  obtain ⟨hc, -⟩ | ⟨-, -, rfl⟩ | ⟨rest, u, -, hh, hu, rfl⟩ | ⟨p, rest, -, hh, hr, rfl⟩ |
    ⟨p, rest, -, hh, -, hs, hw, rfl⟩ | ⟨p, rest, u, -, hh, -, -, -, hu, rfl⟩ |
    ⟨p, rest, -, hh, -, -, rfl⟩ := step_cases h
  · exact absurd ((completing_iff s).1 hc).2 hl
  · exact .inr (runsOn_tick hb hl rfl rfl (List.Subset.refl _))
  · obtain ⟨v, n, rfl⟩ := exec_rd_cases hu
    unfold retire
    right
    dsimp only
    split <;> exact runsOn_tick hb hl rfl rfl (by simp [hh])
  · exact .inl ⟨⟨.cycle p, by simp [hh], by simp [HostLine.resets, hr]⟩, rfl⟩
  · obtain ⟨ha, hv, hi⟩ | hn := runsOn_tick_memWrite (s := s) (u := { s with host := rest })
      p.addr p.wdata hb hl rfl rfl (by simp [hh])
    · exact .inl ⟨⟨.cycle p, by simp [hh], by simp [HostLine.resets, hs, hw, ha, hv]⟩, hi⟩
    · exact .inr hn
  · obtain ⟨v, n, rfl⟩ := exec_rd_cases hu
    exact .inr (runsOn_tick hb hl rfl rfl (by simp [hh]))
  · exact .inr (runsOn_tick hb hl rfl rfl (by simp [hh]))

/-- After a Complete step the core is idle. -/
theorem step_of_due {s t : State} (hb : s.busy = true) (hl : s.lat = 0) (h : step s = .next t) :
    t.busy = false := by
  rw [step_of_completing ((completing_iff s).2 ⟨hb, hl⟩)] at h
  by_cases hs : s.pend = .srst
  · rw [hs] at h
    cases h
    rfl
  · rw [exec_instr_of_due hs ⟨hb, hl, rfl⟩] at h
    cases h
    rfl

/-- With no reset in the host list, a running command is due when its latency is over. -/
theorem run_lat_eq_due (n : Nat) {s : State} (hl : s.lat = n) (hb : s.busy = true)
    (hr : ∀ l ∈ s.host, l.resets = false) : ∃ u, Host.Core.run core n s = .next u ∧ due s.pend u := by
  induction n generalizing s with
  | zero => exact ⟨s, rfl, hb, hl, rfl⟩
  | succ n ih =>
    obtain ⟨t, ht⟩ := exists_step_eq_next s
    obtain ⟨⟨l, hm, hlr⟩, -⟩ | ⟨htb, htp, htl, hth⟩ := step_of_running hb (by omega) ht
    · simp [hr l hm] at hlr
    · rw [core_run_succ ht, ← htp]
      exact ih (by omega) htb fun l hm => hr l (hth hm)

/-- The core is idle at most one step after the latency of a running command is over. -/
theorem run_reaches_idle (n : Nat) {s : State} (hl : s.lat = n) (hb : s.busy = true) :
    ∃ k t, k ≤ n + 1 ∧ Host.Core.run core k s = .next t ∧ t.busy = false := by
  induction n generalizing s with
  | zero =>
    obtain ⟨t, ht⟩ := exists_step_eq_next s
    exact ⟨1, t, by omega, core_run_succ ht 0, step_of_due hb hl ht⟩
  | succ n ih =>
    obtain ⟨t, ht⟩ := exists_step_eq_next s
    obtain ⟨-, hi⟩ | ⟨htb, -, htl, -⟩ := step_of_running hb (by omega) ht
    · exact ⟨1, t, by omega, core_run_succ ht 0, hi⟩
    · obtain ⟨k, u, hk, hu, hi⟩ := ih (by omega) htb
      exact ⟨k + 1, u, by omega, (core_run_succ ht k).trans hu, hi⟩

/-- Settles O29, by induction on the latency: every step uses up one step of it or resets the core. -/
theorem runningCommandCompletes : Obligations.RunningCommandCompletes :=
  ⟨fun _ hb hr => run_lat_eq_due _ rfl hb hr, fun _ hb => run_reaches_idle _ rfl hb⟩

end Sys2Proof.Machine
end

section
/-! SUPPORT. What one step can do, told apart by who acts: the Core at a Complete step, the `rst` pin, a host
write, or nobody. -/

namespace Sys2Proof.Machine

theorem nextCycle_of_host {s : State} {p : Pins} {rest : List HostLine} (hc : completing s = false)
    (hh : s.host = .cycle p :: rest) : nextCycle s p := ⟨hc, by simp [hh]⟩

/-- After a poll the core is as it was: the read gives `rdata`, and the line stays or goes. -/
theorem exists_retire_poll_eq_tick (s : State) : ∃ h, retire .poll s = tick { s with host := h } := by
  by_cases hr : s.rdata.getLsbD 0 = true
  · exact ⟨.poll :: s.host, if_pos hr⟩
  · exact ⟨s.host, if_neg hr⟩

/-- A step is the Complete step, a reset cycle, a host write, or a cycle that leaves everything but the output
port, the host list and the counters of the model as it was. -/
theorem step_kinds {s t : State} (h : step s = .next t) :
    (completing s = true ∧ exec s.pend.instr s = .next t) ∨
    (nextResets s ∧ ∃ rest, t = resetCycle { s with host := rest }) ∨
    (∃ a v rest, nextWrites s a v ∧ t = tick (memWrite a v { s with host := rest })) ∨
    (∃ rest r n, completing s = false ∧ t = tick { s with host := rest, rdata := r, draws := n }) := by
  obtain hx | ⟨hc, -, rfl⟩ | ⟨rest, u, hc, -, hu, rfl⟩ | ⟨p, rest, hc, hh, hr, rfl⟩ |
    ⟨p, rest, hc, hh, hr, hs, hw, rfl⟩ | ⟨p, rest, u, hc, -, -, -, -, hu, rfl⟩ |
    ⟨p, rest, hc, -, -, -, rfl⟩ := step_cases h
  · exact .inl hx
  · exact .inr (.inr (.inr ⟨s.host, s.rdata, s.draws, hc, rfl⟩))
  · obtain ⟨v, n, rfl⟩ := exec_rd_cases hu
    obtain ⟨host, ht⟩ := exists_retire_poll_eq_tick { s with host := rest, rdata := v, draws := n }
    exact .inr (.inr (.inr ⟨host, v, n, hc, ht⟩))
  · exact .inr (.inl ⟨.inl ⟨p, nextCycle_of_host hc hh, hr⟩, rest, rfl⟩)
  · exact .inr (.inr (.inl ⟨p.addr, p.wdata, rest, ⟨p, nextCycle_of_host hc hh, hr, hs, hw, rfl, rfl⟩, rfl⟩))
  · obtain ⟨v, n, rfl⟩ := exec_rd_cases hu
    exact .inr (.inr (.inr ⟨rest, v, n, hc, rfl⟩))
  · exact .inr (.inr (.inr ⟨rest, s.rdata, s.draws, hc, rfl⟩))

/-- The Complete step of a command that was accepted. -/
theorem eq_finish_of_complete {s t : State} (hp : PendingAccepted s) (hc : completing s = true)
    (h : exec s.pend.instr s = .next t) : t = finish (effect s.pend s) := by
  obtain ⟨hb, hl⟩ := (completing_iff s).1 hc
  rw [exec_instr_of_due (hp hb).1 ⟨hb, hl, rfl⟩] at h
  cases h
  rfl

/-- Only SETKEY and HBLK set KEYV. -/
theorem effect_keyv (op : Opcode) (s : State) : (effect op s).keyv = (s.keyv || rebuildsContext op) := by
  cases op with
  | setkey | hblk => exact (Bool.or_true _).symm
  | _ => exact (Bool.or_false _).symm

@[simp] theorem effect_lat (op : Opcode) (s : State) : (effect op s).lat = s.lat := by
  cases op <;> rfl

theorem rebuildsContext_iff (op : Opcode) : rebuildsContext op = true ↔ op = .setkey ∨ op = .hblk := by
  simp [rebuildsContext]

/-- A cipher command does not rebuild the context it needs. -/
theorem rebuildsContext_of_needsKey {op : Opcode} (h : needsKey op = true) : rebuildsContext op = false := by
  cases op with
  | gfnf | gfni | enc | dec => rfl
  | _ => cases h

end Sys2Proof.Machine
end

section
/-! SUPPORT. Each shared operation keeps the machine invariant (10_state.md R37; 30_encoding.md R84). -/

namespace Sys2Proof.Machine

theorem machineInv_tick {s : State} (h : MachineInv s) : MachineInv (tick s) := by
  obtain ⟨hctx, hpend, hlat⟩ := h
  refine ⟨hctx, hpend, fun hb => ?_⟩
  rw [tick_busy] at hb
  simp [hb, hlat hb]

theorem machineInv_resetAll (s : State) : MachineInv (resetAll s) :=
  ⟨(nomatch ·), (nomatch ·), fun _ => rfl⟩

theorem machineInv_raiseError (c : ErrorCause) {s : State} (h : MachineInv s) :
    MachineInv (raiseError c s) := by
  cases c <;> exact h

/-- The premises are what `issue` tests before it accepts. -/
theorem machineInv_accept {op : Opcode} {s : State} (hs : op ≠ .srst) (hk : needsKey op = true → s.keyv = true)
    (h : MachineInv s) : MachineInv (accept op s) := by
  obtain ⟨hctx, -, -⟩ := h
  refine ⟨fun hv => hctx (Bool.and_elim_left hv), fun _ => ⟨hs, ?_, ?_⟩, (nomatch ·)⟩
  · intro (hn : needsKey op = true)
    simp [hk hn, rebuildsContext_of_needsKey hn]
  · intro (hr : rebuildsContext op = true)
    simp [hr]

theorem machineInv_issue (v : Word) {s : State} (h : MachineInv s) : MachineInv (issue v s) := by
  obtain ⟨-, -, hi⟩ | ⟨-, -, hi⟩ | ⟨-, -, hi⟩ | ⟨-, -, hi⟩ | ⟨_, -, -, -, -, -, hi⟩ |
    ⟨op, hb, -, hs, hk, hi⟩ := issue_cases v s <;> rw [hi]
  · exact machineInv_resetAll s
  · exact machineInv_raiseError _ h
  · exact machineInv_raiseError _ (s := { s with cmd := v, done := false }) h
  · exact machineInv_resetAll s
  · exact machineInv_raiseError _ (s := { s with cmd := v, done := false }) h
  · exact machineInv_accept (s := { s with cmd := v, done := false }) hs hk h

/-- A write to KEY clears KEYV, so that the context need not be that of the new key. -/
theorem machineInv_memWrite (a : BitVec 8) (v : Word) {s : State} (h : MachineInv s) :
    MachineInv (memWrite a v s) := by
  obtain ⟨-, hm⟩ | ⟨-, hm⟩ | ⟨-, hm⟩ | ⟨-, hm⟩ | ⟨j, hb, -, hm⟩ | ⟨j, -, -, hm⟩ | ⟨j, -, -, hm⟩ |
    ⟨-, -, hm⟩ | ⟨-, -, hm⟩ | hm := memWrite_cases a v s <;> rw [hm]
  · exact machineInv_issue v h
  · exact h
  · exact h
  · exact machineInv_raiseError _ h
  · obtain ⟨-, -, hlat⟩ := h
    exact ⟨(nomatch ·), fun hb' => absurd (hb.symm.trans hb') (by decide), hlat⟩
  all_goals exact h

theorem contextValid_effect (op : Opcode) {s : State} (h : ContextValid s) : ContextValid (effect op s) := by
  cases op with
  | setkey | hblk => exact fun _ => ⟨rfl, rfl, rfl⟩
  | _ => exact h

theorem machineInv_finish_effect (op : Opcode) {s : State} (hl : s.lat = 0) (h : MachineInv s) :
    MachineInv (finish (effect op s)) := by
  obtain ⟨hctx, -, -⟩ := h
  exact ⟨contextValid_effect op hctx, (nomatch ·), fun _ => (effect_lat op s).trans hl⟩

/-- Settles O27, operation by operation: the Complete step establishes the context, a host write keeps the
invariant, and nothing else of it moves but the latency. -/
theorem stepKeepsTheInvariant : Obligations.StepKeepsTheInvariant := by
  intro s t hi h
  obtain ⟨hc, hx⟩ | ⟨-, rest, rfl⟩ | ⟨a, v, rest, -, rfl⟩ | ⟨rest, r, n, -, rfl⟩ := step_kinds h
  · obtain ⟨-, hl⟩ := (completing_iff s).1 hc
    have ⟨_, hpend, _⟩ := hi
    rw [eq_finish_of_complete hpend hc hx]
    exact machineInv_finish_effect _ hl hi
  · exact machineInv_resetAll s
  · exact machineInv_tick (machineInv_memWrite a v (s := { s with host := rest }) hi)
  · exact machineInv_tick (s := { s with host := rest, rdata := r, draws := n }) hi

end Sys2Proof.Machine
end

section
/-! SUPPORT. How BUSY, DONE and KEYV change over a host write and over a step (10_state.md R26). Each flag has
one lemma: it is as it was, or it changed for a cause of the table. -/

namespace Sys2Proof.Machine

/-- BUSY after a write to CMD. -/
theorem issue_busy_cases (v : Word) (s : State) :
    (issue v s).busy = s.busy ∨ ((issue v s).busy = false ∧ v = 0x000000FF) ∨
      ∃ op, op ≠ .srst ∧ v = encodeCmd op ∧ (issue v s).busy = true ∧ (issue v s).pend = op := by
  obtain ⟨-, hv, hi⟩ | ⟨-, -, hi⟩ | ⟨-, -, hi⟩ | ⟨-, hv, hi⟩ | ⟨_, -, -, -, -, -, hi⟩ |
    ⟨op, -, hv, hs, -, hi⟩ := issue_cases v s <;> rw [hi]
  · exact .inr (.inl ⟨rfl, hv⟩)
  · exact .inl rfl
  · exact .inl rfl
  · exact .inr (.inl ⟨rfl, hv⟩)
  · exact .inl rfl
  · exact .inr (.inr ⟨op, hs, hv, rfl, rfl⟩)

/-- DONE after a write to CMD. -/
theorem issue_done_cases (v : Word) (s : State) :
    (issue v s).done = s.done ∨ ((issue v s).done = false ∧ (v = 0x000000FF ∨ s.busy = false)) := by
  obtain ⟨-, hv, hi⟩ | ⟨-, -, hi⟩ | ⟨hb, -, hi⟩ | ⟨-, hv, hi⟩ | ⟨_, hb, -, -, -, -, hi⟩ |
    ⟨_, hb, -, -, -, hi⟩ := issue_cases v s <;> rw [hi]
  · exact .inr ⟨rfl, .inl hv⟩
  · exact .inl rfl
  · exact .inr ⟨rfl, .inr hb⟩
  · exact .inr ⟨rfl, .inl hv⟩
  · exact .inr ⟨rfl, .inr hb⟩
  · exact .inr ⟨rfl, .inr hb⟩

/-- KEYV after a write to CMD. -/
theorem issue_keyv_cases (v : Word) (s : State) :
    (issue v s).keyv = s.keyv ∨
      ((issue v s).keyv = false ∧ (v = 0x000000FF ∨ (s.busy = false ∧ (v = 0x12 ∨ v = 0x31)))) := by
  obtain ⟨-, hv, hi⟩ | ⟨-, -, hi⟩ | ⟨-, -, hi⟩ | ⟨-, hv, hi⟩ | ⟨_, -, -, -, -, -, hi⟩ |
    ⟨op, hb, hv, -, -, hi⟩ := issue_cases v s <;> rw [hi]
  · exact .inr ⟨rfl, .inl hv⟩
  · exact .inl rfl
  · exact .inl rfl
  · exact .inr ⟨rfl, .inl hv⟩
  · exact .inl rfl
  · by_cases hr : rebuildsContext op = true
    · refine .inr ⟨by simp [hr], .inr ⟨hb, ?_⟩⟩
      obtain rfl | rfl := (rebuildsContext_iff op).1 hr
      · exact .inl hv
      · exact .inr hv
    · exact .inl (by simp [hr])

/-- BUSY after a host write. -/
theorem memWrite_busy_cases (a : BitVec 8) (v : Word) (s : State) :
    (memWrite a v s).busy = s.busy ∨ ((memWrite a v s).busy = false ∧ a = 0x01 ∧ v = 0x000000FF) ∨
      (a = 0x01 ∧ ∃ op, op ≠ .srst ∧ v = encodeCmd op ∧ (memWrite a v s).busy = true ∧
        (memWrite a v s).pend = op) := by
  obtain ⟨ha, hm⟩ | ⟨-, hm⟩ | ⟨-, hm⟩ | ⟨-, hm⟩ | ⟨_, -, -, hm⟩ | ⟨_, -, -, hm⟩ | ⟨_, -, -, hm⟩ |
    ⟨-, -, hm⟩ | ⟨-, -, hm⟩ | hm := memWrite_cases a v s <;> rw [hm]
  · obtain h | ⟨h, hv⟩ | h := issue_busy_cases v s
    · exact .inl h
    · exact .inr (.inl ⟨h, ha, hv⟩)
    · exact .inr (.inr ⟨ha, h⟩)
  all_goals exact .inl rfl

/-- DONE after a host write. -/
theorem memWrite_done_cases (a : BitVec 8) (v : Word) (s : State) :
    (memWrite a v s).done = s.done ∨
      ((memWrite a v s).done = false ∧
        ((a = 0x01 ∧ (v = 0x000000FF ∨ s.busy = false)) ∨ (a = 0x02 ∧ v.getLsbD 1 = true))) := by
  obtain ⟨ha, hm⟩ | ⟨ha, hm⟩ | ⟨-, hm⟩ | ⟨-, hm⟩ | ⟨_, -, -, hm⟩ | ⟨_, -, -, hm⟩ | ⟨_, -, -, hm⟩ |
    ⟨-, -, hm⟩ | ⟨-, -, hm⟩ | hm := memWrite_cases a v s <;> rw [hm]
  · obtain h | ⟨h, hc⟩ := issue_done_cases v s
    · exact .inl h
    · exact .inr ⟨h, .inl ⟨ha, hc⟩⟩
  · cases hv : v.getLsbD 1
    · exact .inl (by rw [writeStatus_done, hv]; exact Bool.and_true _)
    · exact .inr ⟨by rw [writeStatus_done, hv]; exact Bool.and_false _, .inr ⟨ha, rfl⟩⟩
  all_goals exact .inl rfl

/-- KEYV after a host write. -/
theorem memWrite_keyv_cases (a : BitVec 8) (v : Word) (s : State) :
    (memWrite a v s).keyv = s.keyv ∨
      ((memWrite a v s).keyv = false ∧
        ((a = 0x01 ∧ (v = 0x000000FF ∨ (s.busy = false ∧ (v = 0x12 ∨ v = 0x31)))) ∨
          (s.busy = false ∧ ∃ j, a = (Reg.key j).addr))) := by
  obtain ⟨ha, hm⟩ | ⟨-, hm⟩ | ⟨-, hm⟩ | ⟨-, hm⟩ | ⟨j, hb, ha, hm⟩ | ⟨_, -, -, hm⟩ | ⟨_, -, -, hm⟩ |
    ⟨-, -, hm⟩ | ⟨-, -, hm⟩ | hm := memWrite_cases a v s <;> rw [hm]
  · obtain h | ⟨h, hc⟩ := issue_keyv_cases v s
    · exact .inl h
    · exact .inr ⟨h, .inl ⟨ha, hc⟩⟩
  iterate 3 exact .inl rfl
  · exact .inr ⟨rfl, .inr ⟨hb, j, ha⟩⟩
  all_goals exact .inl rfl

/-- BUSY after a step. -/
theorem step_busy_cases {s t : State} (h : step s = .next t) :
    t.busy = s.busy ∨ (t.busy = false ∧ (completing s = true ∨ nextResets s)) ∨
      (∃ op, op ≠ .srst ∧ t.pend = op ∧ nextWrites s 0x01 (encodeCmd op) ∧ t.busy = true) := by
  obtain ⟨hc, -⟩ | ⟨hr, _, rfl⟩ | ⟨a, v, rest, hw, rfl⟩ | ⟨_, _, _, -, rfl⟩ := step_kinds h
  · obtain ⟨hb, hl⟩ := (completing_iff s).1 hc
    exact .inr (.inl ⟨step_of_due hb hl h, .inl hc⟩)
  · exact .inr (.inl ⟨rfl, .inr hr⟩)
  · obtain hm | ⟨hm, rfl, rfl⟩ | ⟨rfl, op, hs, rfl, hb, hp⟩ := memWrite_busy_cases a v { s with host := rest }
    · exact .inl hm
    · exact .inr (.inl ⟨hm, .inr (.inr hw)⟩)
    · exact .inr (.inr ⟨op, hs, hp, hw, hb⟩)
  · exact .inl rfl

/-- DONE after a step. -/
theorem step_done_cases {s t : State} (hp : PendingAccepted s) (h : step s = .next t) :
    t.done = s.done ∨ (t.done = true ∧ completing s = true) ∨
      (t.done = false ∧
        (nextResets s ∨ (s.busy = false ∧ ∃ v, nextWrites s 0x01 v) ∨
          ∃ v, nextWrites s 0x02 v ∧ v.getLsbD 1 = true)) := by
  obtain ⟨hc, hx⟩ | ⟨hr, _, rfl⟩ | ⟨a, v, rest, hw, rfl⟩ | ⟨_, _, _, -, rfl⟩ := step_kinds h
  · rw [eq_finish_of_complete hp hc hx]
    exact .inr (.inl ⟨rfl, hc⟩)
  · exact .inr (.inr ⟨rfl, .inl hr⟩)
  · obtain hm | ⟨hm, ⟨rfl, rfl | hb⟩ | ⟨rfl, hv⟩⟩ := memWrite_done_cases a v { s with host := rest }
    · exact .inl hm
    · exact .inr (.inr ⟨hm, .inl (.inr hw)⟩)
    · exact .inr (.inr ⟨hm, .inr (.inl ⟨hb, v, hw⟩)⟩)
    · exact .inr (.inr ⟨hm, .inr (.inr ⟨v, hw, hv⟩)⟩)
  · exact .inl rfl

/-- KEYV after a step. -/
theorem step_keyv_cases {s t : State} (hp : PendingAccepted s) (h : step s = .next t) :
    t.keyv = s.keyv ∨ (t.keyv = true ∧ completing s = true ∧ (s.pend = .setkey ∨ s.pend = .hblk)) ∨
      (t.keyv = false ∧
        (nextResets s ∨ (s.busy = false ∧ (nextWrites s 0x01 0x12 ∨ nextWrites s 0x01 0x31)) ∨
          (s.busy = false ∧ ∃ (j : Fin 4) (v : Word), nextWrites s (BitVec.ofNat 8 (0x08 + j)) v))) := by
  obtain ⟨hc, hx⟩ | ⟨hr, _, rfl⟩ | ⟨a, v, rest, hw, rfl⟩ | ⟨_, _, _, -, rfl⟩ := step_kinds h
  · rw [eq_finish_of_complete hp hc hx, finish_keyv, effect_keyv]
    by_cases hr : rebuildsContext s.pend = true
    · exact .inr (.inl ⟨by simp [hr], hc, (rebuildsContext_iff _).1 hr⟩)
    · exact .inl (by simp [hr])
  · exact .inr (.inr ⟨rfl, .inl hr⟩)
  · obtain hm | ⟨hm, ⟨rfl, rfl | ⟨hb, rfl | rfl⟩⟩ | ⟨hb, j, rfl⟩⟩ :=
      memWrite_keyv_cases a v { s with host := rest }
    · exact .inl hm
    · exact .inr (.inr ⟨hm, .inl (.inr hw)⟩)
    · exact .inr (.inr ⟨hm, .inr (.inl ⟨hb, .inl hw⟩)⟩)
    · exact .inr (.inr ⟨hm, .inr (.inl ⟨hb, .inr hw⟩)⟩)
    · exact .inr (.inr ⟨hm, .inr (.inr ⟨hb, j, v, hw⟩)⟩)
  · exact .inl rfl

/-- Settles O16: the four columns are the cases in which BUSY and DONE change. -/
theorem busyAndDoneChangeOnlyAsTabled : Obligations.BusyAndDoneChangeOnlyAsTabled := by
  intro s t hp h
  refine ⟨fun h0 h1 => ?_, fun h1 h0 => ?_, fun h0 h1 => ?_, fun h1 h0 => ?_⟩
  · obtain hk | ⟨hk, -⟩ | ⟨op, hs, ho, hw, -⟩ := step_busy_cases h
    · simp [h0, h1] at hk
    · simp [h1] at hk
    · exact ⟨op, hs, ho, hw⟩
  · obtain hk | ⟨-, hc⟩ | ⟨_, -, -, -, hk⟩ := step_busy_cases h
    · simp [h0, h1] at hk
    · exact hc
    · simp [h0] at hk
  · obtain hk | ⟨-, hc⟩ | ⟨hk, -⟩ := step_done_cases hp h
    · simp [h0, h1] at hk
    · exact hc
    · simp [h1] at hk
  · obtain hk | ⟨hk, -⟩ | ⟨-, hc⟩ := step_done_cases hp h
    · simp [h0, h1] at hk
    · simp [h0] at hk
    · exact hc

/-- Settles O17: the two columns are the cases in which KEYV changes. -/
theorem keyvChangesOnlyAsTabled : Obligations.KeyvChangesOnlyAsTabled := by
  intro s t hp h
  refine ⟨fun h0 h1 => ?_, fun h1 h0 => ?_⟩
  · obtain hk | ⟨-, hc⟩ | ⟨hk, -⟩ := step_keyv_cases hp h
    · simp [h0, h1] at hk
    · exact hc
    · simp [h1] at hk
  · obtain hk | ⟨hk, -⟩ | ⟨-, hc⟩ := step_keyv_cases hp h
    · simp [h0, h1] at hk
    · simp [h0] at hk
    · exact hc

/-- Settles O28: what a host write can do to a running command leaves its identity, inputs and results. -/
theorem runningCommandIsFrozen : Obligations.RunningCommandIsFrozen := by
  intro s t hb hc h
  have hl : s.lat - 1 + 1 = s.lat := by
    have : s.lat ≠ 0 := fun hl => by simp [completing, hb, hl] at hc
    omega
  obtain ⟨hc', -⟩ | ⟨hr, -⟩ | ⟨a, v, rest, hw, rfl⟩ | ⟨rest, r, n, -, rfl⟩ := step_kinds h
  · simp [hc] at hc'
  · exact .inl hr
  · obtain ⟨rfl, rfl, -⟩ | hm | hm | hm | hm := memWrite_cases_of_busy a v (s := { s with host := rest }) hb
    · exact .inl (.inr hw)
    all_goals
      rw [hm]
      exact .inr (by simp [hb, hl])
  · exact .inr (by simp [hb, hl])

end Sys2Proof.Machine
end

section
/-! SUPPORT. The hard-wired ID and the interrupt enables (10_state.md R22, R27). -/

namespace Sys2Proof.Machine

/-- A register that no command writes reads exactly at every moment. -/
theorem exec_rd_of_never_written {a : BitVec 8} {r : Reg} (hr : regAt a = some r)
    (hw : ∀ op, writes op r = false) (s : State) :
    exec (.rd a) s = .next { s with rdata := regValue s r } :=
  (readsAs_of_regAt (window := []) hr (by simp [hw])).2 (by simp)

theorem writes_ident (op : Opcode) : writes op .ident = false := by cases op <;> rfl

theorem writes_irqen (op : Opcode) : writes op .irqen = false := by cases op <;> rfl

/-- A state in which every register but ID differs from its reset value. -/
def allSet : State :=
  { State.reset with
    cmd := 1
    busy := true
    doneIE := true
    key := ⟨1, 1, 1, 1⟩
    din := ⟨1, 1, 1, 1⟩
    dout := ⟨1, 1, 1, 1⟩
    hst := ⟨1, 1, 1, 1⟩
    opa := 1
    opb := 1
    res := 1
    wk := ⟨1, 1, 1, 1⟩
    ksl := ⟨1, 1, 1, 1⟩
    rk := .replicate 36 1 }

theorem regValue_reset_ne_allSet {r : Reg} (h : r ≠ .ident) : regValue State.reset r ≠ regValue allSet r := by
  cases r with
  | ident => exact absurd rfl h
  | cmd | status | irqen | opa | opb | res => decide
  | key j | din j | dout j | hst j | wk j | ksl j => clear h; revert j; decide
  | rk i => clear h; revert i; decide

/-- Settles O13: ID is read as no command writes it, and one pair of states tells every other register apart. -/
theorem idIsTheOneHardwiredRegister : Obligations.IdIsTheOneHardwiredRegister :=
  ⟨exec_rd_of_never_written rfl writes_ident, fun _ _ => rfl,
    fun _ h => ⟨State.reset, allSet, regValue_reset_ne_allSet h⟩⟩

/-- IRQEN keeps bits 1:0 of what was written to it. -/
theorem irqenWord_writeIrqen (v : Word) (s : State) : irqenWord (writeIrqen v s) = v &&& 0x3 := by
  refine BitVec.eq_of_getLsbD_eq fun i hi => ?_
  rw [irqenWord, BitVec.getLsbD_setWidth, BitVec.getLsbD_append, BitVec.getLsbD_and]
  match i with
  | 0 | 1 => simp
  | i + 2 =>
    have h3 : (3#32).getLsbD (i + 2) = false := BitVec.getLsbD_of_ge (3#2) _ (by omega)
    simp [h3]

/-- Settles O14, on the state that the write leaves. -/
theorem irqenMasksTheInterrupt : Obligations.IrqenMasksTheInterrupt := by
  refine ⟨rfl, rfl, fun s v => ⟨writeIrqen v s, rfl, rfl, ?_, rfl⟩⟩
  rw [← irqenWord_writeIrqen v s]
  exact exec_rd_of_never_written rfl writes_irqen _

end Sys2Proof.Machine
end

section
/-! SUPPORT. Reads and writes of the register space, one rule per kind of register (20_memory.md R61, R62, R66). -/

namespace Sys2Proof

/-- The registers that a host write loads: KEY, DIN, HST, OPA and OPB (20_memory.md R62). -/
def Reg.isInput (r : Reg) : Bool :=
  match r with
  | .key _ | .din _ | .hst _ | .opa | .opb => true
  | .ident | .cmd | .status | .irqen | .dout _ | .res | .wk _ | .ksl _ | .rk _ => false

/-- The registers that are read-only to the host (10_state.md R21). -/
def Reg.isReadOnly (r : Reg) : Bool :=
  match r with
  | .ident | .dout _ | .res | .wk _ | .ksl _ | .rk _ => true
  | .cmd | .status | .irqen | .key _ | .din _ | .hst _ | .opa | .opb => false

end Sys2Proof

namespace Sys2Proof.Machine

/-- The reserved indices are those without a register. -/
theorem regAt_eq_none_iff (a : BitVec 8) : regAt a = none ↔ reservedIndex a = true := by
  simp only [regAt, reservedIndex, ite_eq_iff, reduceCtorEq, and_false, false_or, and_true, Bool.or_eq_true,
    Bool.and_eq_true, decide_eq_true_eq]
  omega

/-- Every index is reserved or the index of a register. -/
theorem reserved_or_addr (a : BitVec 8) : reservedIndex a = true ∨ ∃ r : Reg, a = r.addr := by
  cases hr : regAt a with
  | none => exact .inl ((regAt_eq_none_iff a).1 hr)
  | some r => exact .inr ⟨r, (addr_of_regAt hr).symm⟩

theorem inputIndex_addr (r : Reg) : inputIndex r.addr = r.isInput := by
  cases r with
  | ident | cmd | status | irqen | opa | opb | res => rfl
  | key j | din j | dout j | hst j | wk j | ksl j => revert j; decide
  | rk i => revert i; decide

theorem readOnlyIndex_addr (r : Reg) : readOnlyIndex r.addr = r.isReadOnly := by
  cases r with
  | ident | cmd | status | irqen | opa | opb | res => rfl
  | key j | din j | dout j | hst j | wk j | ksl j => revert j; decide
  | rk i => revert i; decide

theorem reservedIndex_addr (r : Reg) : reservedIndex r.addr = false := by
  simp [← Bool.not_eq_true, ← regAt_eq_none_iff]

/-- No reserved index is that of an input register. -/
theorem inputIndex_of_reserved {a : BitVec 8} (h : reservedIndex a = true) : inputIndex a = false := by
  simp [reservedIndex, inputIndex] at h ⊢
  omega

/-! Reads -/

/-- The commands that have a register in their write set (20_memory.md R66). -/
def writers (r : Reg) : List Opcode := Opcode.all.filter fun op => writes op r

theorem mem_writers {op : Opcode} {r : Reg} : op ∈ writers r ↔ writes op r = true := by
  simp [writers, Opcode.mem_all]

/-- Every register reads as the value it holds, but while one of its writers runs. -/
theorem readsAs_addr (s : State) (r : Reg) : readsAs s r.addr (regValue s r) (writers r) :=
  readsAs_of_regAt (regAt_addr r) mem_writers.symm

theorem exec_rd_of_reserved {a : BitVec 8} (h : reservedIndex a = true) (s : State) :
    exec (.rd a) s = .next { s with rdata := 0 } := by
  have hr : regAt a = none := (regAt_eq_none_iff a).2 h
  simp only [exec, execRd, memRead, hr]

/-- The value of a flag in front of lower bits. -/
theorem toNat_ofBool_append (b : Bool) {n : Nat} (x : BitVec n) :
    (BitVec.ofBool b ++ x).toNat = x.toNat + 2 ^ n * b.toNat := by
  rw [BitVec.toNat_append, ← Nat.shiftLeft_add_eq_or_of_lt x.isLt, BitVec.toNat_ofBool, Nat.shiftLeft_eq]
  ring

theorem toNat_statusWord (s : State) :
    (statusWord s).toNat = s.busy.toNat + 2 * s.done.toNat + 4 * s.keyv.toNat + 8 * s.errIll.toNat +
      16 * s.errNoKey.toNat + 32 * s.errBusy.toNat := by
  rw [statusWord, BitVec.toNat_setWidth_of_le (by decide)]
  simp only [toNat_ofBool_append, BitVec.toNat_ofBool]
  rfl

theorem toNat_irqenWord (s : State) : (irqenWord s).toNat = s.doneIE.toNat + 2 * s.errIE.toNat := by
  rw [irqenWord, BitVec.toNat_setWidth_of_le (by decide), toNat_ofBool_append, BitVec.toNat_ofBool]
  rfl

theorem roundKey_eq_getElem (rk : Vector Word 36) (i : Fin 36) : roundKey rk i = rk[i.val] := by
  simp [roundKey]

/-- Settles O11: each index has its register, whose writers are the listed commands by computation. -/
theorem readReturnsTheRegister : Obligations.ReadReturnsTheRegister := by
  intro s a
  refine ⟨fun h => exec_rd_of_reserved h s, ?_, ?_, ?_, ?_, readsAs_addr s .ident, readsAs_addr s .cmd,
    fun j => ⟨readsAs_addr s (.key j), readsAs_addr s (.din j), readsAs_addr s (.dout j),
      readsAs_addr s (.hst j), readsAs_addr s (.wk j), readsAs_addr s (.ksl j)⟩,
    readsAs_addr s .opa, readsAs_addr s .opb, readsAs_addr s .res, fun i => ?_⟩
  · rintro rfl
    exact ⟨statusWord s, exec_rd_status s, toNat_statusWord s⟩
  · rintro rfl
    exact ⟨irqenWord s, exec_rd_of_never_written rfl writes_irqen s, toNat_irqenWord s⟩
  · intro r hr hb hw
    obtain rfl := addr_of_regAt hr
    exact (readsAs_addr s r).1 ⟨hb, mem_writers.2 hw⟩
  · intro r hr hn
    obtain rfl := addr_of_regAt hr
    exact (readsAs_addr s r).2 (by rwa [mem_writers])
  · rw [← roundKey_eq_getElem]
    exact readsAs_addr s (.rk i)

/-! Writes -/

theorem exec_wr (a : BitVec 8) (v : Word) (s : State) : exec (.wr a v) s = .next (memWrite a v s) := rfl

/-- What a host write of `v` to an input register leaves, where it is not dropped (20_memory.md R62). -/
def storeInput (r : Reg) (v : Word) (s : State) : State :=
  match r with
  | .key j => { s with key := s.key.setWord j v, keyv := false }
  | .din j => { s with din := s.din.setWord j v }
  | .hst j => { s with hst := s.hst.setWord j v }
  | .opa => { s with opa := v }
  | .opb => { s with opb := v }
  | .ident | .cmd | .status | .irqen | .dout _ | .res | .wk _ | .ksl _ | .rk _ => s

/-- A write to an input register is dropped while a command runs, and stores the word otherwise. -/
theorem exec_wr_of_isInput {r : Reg} (hi : r.isInput = true) (v : Word) (s : State) :
    exec (.wr r.addr v) s = .next (writeInput (storeInput r v) s) := by
  rw [exec_wr]
  cases r with
  | key | din | hst | opa | opb => simp only [memWrite, regAt_addr]; rfl
  | _ => cases hi

theorem exec_wr_of_inputIndex_of_busy {a : BitVec 8} (hi : inputIndex a = true) (v : Word) {s : State}
    (hb : s.busy = true) : exec (.wr a v) s = .next { s with errBusy := true } := by
  obtain hr | ⟨r, rfl⟩ := reserved_or_addr a
  · simp [inputIndex_of_reserved hr] at hi
  · rw [inputIndex_addr] at hi
    rw [exec_wr_of_isInput hi, writeInput, if_pos hb, raiseError]

theorem exec_wr_of_isInput_of_idle {r : Reg} (hi : r.isInput = true) (v : Word) {s : State}
    (hb : s.busy = false) : exec (.wr r.addr v) s = .next (storeInput r v s) := by
  rw [exec_wr_of_isInput hi, writeInput, if_neg (by simp [hb])]

theorem exec_wr_of_reserved {a : BitVec 8} (h : reservedIndex a = true) (v : Word) (s : State) :
    exec (.wr a v) s = .next s := by
  have hr : regAt a = none := (regAt_eq_none_iff a).2 h
  simp only [exec_wr, memWrite, hr]

theorem exec_wr_of_isReadOnly {r : Reg} (h : r.isReadOnly = true) (v : Word) (s : State) :
    exec (.wr r.addr v) s = .next s := by
  rw [exec_wr]
  cases r with
  | ident | dout | res | wk | ksl | rk => simp only [memWrite, regAt_addr]
  | _ => cases h

/-- Writes to read-only and reserved indices are ignored. -/
theorem exec_wr_of_ignored {a : BitVec 8} (h : readOnlyIndex a = true ∨ reservedIndex a = true) (v : Word)
    (s : State) : exec (.wr a v) s = .next s := by
  obtain hr | ⟨r, rfl⟩ := reserved_or_addr a
  · exact exec_wr_of_reserved hr v s
  · rw [readOnlyIndex_addr, reservedIndex_addr] at h
    exact exec_wr_of_isReadOnly (by simpa using h) v s

/-- Settles O12: one rule for each kind of index. -/
theorem writeActsByRegister : Obligations.WriteActsByRegister := by
  intro s v
  refine ⟨exec_wr_cmd v s, rfl, rfl, fun hb a hi => exec_wr_of_inputIndex_of_busy hi v hb,
    fun hb j => ⟨?key, ?din, ?hst⟩, fun hb => ⟨?opa, ?opb⟩, fun a h => exec_wr_of_ignored h v s⟩
  case key => exact exec_wr_of_isInput_of_idle (r := .key j) rfl v hb
  case din => exact exec_wr_of_isInput_of_idle (r := .din j) rfl v hb
  case hst => exact exec_wr_of_isInput_of_idle (r := .hst j) rfl v hb
  case opa => exact exec_wr_of_isInput_of_idle (r := .opa) rfl v hb
  case opb => exact exec_wr_of_isInput_of_idle (r := .opb) rfl v hb

end Sys2Proof.Machine
end

section
/-! SUPPORT. The frame of a Complete step (20_memory.md R66; 46_control.md R195). -/

namespace Sys2Proof.Machine

@[simp] theorem effect_errIll (op : Opcode) (s : State) : (effect op s).errIll = s.errIll := by
  cases op <;> rfl
@[simp] theorem effect_errNoKey (op : Opcode) (s : State) : (effect op s).errNoKey = s.errNoKey := by
  cases op <;> rfl
@[simp] theorem effect_errBusy (op : Opcode) (s : State) : (effect op s).errBusy = s.errBusy := by
  cases op <;> rfl
@[simp] theorem effect_pend (op : Opcode) (s : State) : (effect op s).pend = s.pend := by
  cases op <;> rfl
@[simp] theorem effect_rdata (op : Opcode) (s : State) : (effect op s).rdata = s.rdata := by
  cases op <;> rfl
@[simp] theorem effect_host (op : Opcode) (s : State) : (effect op s).host = s.host := by
  cases op <;> rfl
@[simp] theorem effect_draws (op : Opcode) (s : State) : (effect op s).draws = s.draws := by
  cases op <;> rfl

/-- The pseudocode of a command writes the registers of its write set only; KEYV is a bit of STATUS. -/
theorem regValue_effect {op : Opcode} {r : Reg} (hr : r ≠ .status) (hw : writes op r = false) (s : State) :
    regValue (effect op s) r = regValue s r := by
  cases op with
  | nop | srst => rfl
  | gfmul | sbox0 | sbox1 | mix0 | mix1 | f0 | f1 =>
    cases r with
    | res => cases hw
    | _ => rfl
  | sigma | ksexp | gfnf | gfni | enc | dec =>
    cases r with
    | dout => cases hw
    | _ => rfl
  | setkey =>
    cases r with
    | wk | ksl | rk => cases hw
    | status => exact absurd rfl hr
    | _ => rfl
  | hinit =>
    cases r with
    | hst => cases hw
    | _ => rfl
  | hblk =>
    cases r with
    | key | wk | ksl | rk | hst | dout => cases hw
    | status => exact absurd rfl hr
    | _ => rfl

/-- The end of a command changes STATUS only. -/
theorem regValue_finish {r : Reg} (hr : r ≠ .status) (s : State) : regValue (finish s) r = regValue s r := by
  cases r with
  | status => exact absurd rfl hr
  | _ => rfl

/-- A due Complete step of a command other than SRST. -/
theorem step_of_completing_of_ne_srst {s : State} (hc : completing s = true) (hs : s.pend ≠ .srst) :
    step s = .next (finish (effect s.pend s)) := by
  obtain ⟨hb, hl⟩ := (completing_iff s).1 hc
  rw [step_of_completing hc, exec_instr_of_due hs ⟨hb, hl, rfl⟩]

/-- Settles O24: the frames of the pseudocode and of the end, one after the other. -/
theorem completeStepWritesOnlyItsWriteSet : Obligations.CompleteStepWritesOnlyItsWriteSet := by
  intro s t hc hs h
  obtain rfl : finish (effect s.pend s) = t := by
    rwa [step_of_completing_of_ne_srst hc hs, Host.Outcome.next.injEq] at h
  refine ⟨fun r hr hw => (regValue_finish hr _).trans (regValue_effect hr hw s), rfl, rfl, ?keyv, ?kept⟩
  case keyv => rw [finish_keyv, effect_keyv, rebuildsContext, Bool.or_assoc]
  case kept => simp

end Sys2Proof.Machine
end

section
/-! SUPPORT. The encoder and the decoder undo each other (30_encoding.md R80–R83; 46_control.md R193, R194). -/

namespace Sys2Proof

/-- A command is encoded by its command word. -/
@[simp] theorem encode_instr (op : Opcode) : encode op.instr = .cmd32 (encodeCmd op) := by cases op <;> rfl

@[simp] theorem decode_cmd32_encodeCmd (op : Opcode) : decode (.cmd32 (encodeCmd op)) = .ok op.instr := by
  simp only [decode, decodeCmd_encodeCmd]

theorem decodeBus_encodeBus (we : Bool) (a : BitVec 8) (d : Word) :
    decodeBus (encodeBus we a d) = if we then .wr a d else .rd a :=
  Machine.decodeBus_word ⟨false, true, we, a, d⟩

theorem decode_encode (i : Instr) : decode (encode i) = .ok i := by
  obtain ⟨op, rfl⟩ | ⟨a, rfl⟩ | ⟨a, d, rfl⟩ := Machine.instr_cases i
  · rw [encode_instr, decode_cmd32_encodeCmd]
  · exact congrArg Decoded.ok (decodeBus_encodeBus false a 0)
  · exact congrArg Decoded.ok (decodeBus_encodeBus true a d)

/-- Settles O3: a command by its row of the opcode map, a transaction by the fields of its bus word. -/
theorem decodeOfEncodeIsTheInstruction : Obligations.DecodeOfEncodeIsTheInstruction :=
  fun i _ => decode_encode i

/-- Settles O1: each word is the encoding of its instruction. -/
theorem wordsDecodeAsTheOpcodeMap : Obligations.WordsDecodeAsTheOpcodeMap :=
  ⟨decode_encode .nop, decode_encode .gfmul, decode_encode .sbox1, decode_encode .mix0, decode_encode .sigma,
    decode_encode .setkey, decode_encode .enc, decode_encode .hblk, decode_encode .srst,
    decode_encode (.rd 0x1A), decode_encode (.wr 0x0C 0x80000001)⟩

/-- A bus word is made of its three fields. -/
theorem encodeBus_fields (w : BitVec 41) :
    encodeBus (w.getLsbD 40) (w.extractLsb' 32 8) (w.extractLsb' 0 32) = w := by
  refine BitVec.eq_of_getLsbD_eq fun i hi => ?_
  rw [getLsbD_encodeBus, BitVec.getLsbD_extractLsb', BitVec.getLsbD_extractLsb']
  split_ifs with hd ha
  · simp [hd]
  · rw [show 32 + (i - 32) = i by omega]
    simp [show i - 32 < 8 by omega]
  · simp [show i = 40 by omega]

/-- A bus word whose ignored bits are 0 is the encoding of its transaction. -/
theorem encode_decodeBus {w : BitVec 41} (h : (CodeWord.hostbus w).canonical = true) :
    encode (decodeBus w) = .hostbus w := by
  refine Eq.trans ?_ (congrArg CodeWord.hostbus (encodeBus_fields w))
  unfold decodeBus
  by_cases hw : w.getLsbD 40 = true
  · rw [if_pos hw, encode, hw]
  · simp only [CodeWord.canonical, Bool.or_eq_true, beq_iff_eq] at h
    rw [if_neg hw, encode, h.resolve_left hw, Bool.eq_false_of_not_eq_true hw]

/-- Settles O4: a command word spells one command, and a bus word is made of its fields. -/
theorem encodeOfDecodedCanonicalWord : Obligations.EncodeOfDecodedCanonicalWord := by
  intro c i hc h
  cases c with
  | cmd32 w =>
    obtain ⟨op, rfl, rfl⟩ := Machine.eq_instr_of_decode_cmd32 h
    exact encode_instr op
  | hostbus w =>
    cases h
    exact encode_decodeBus hc

/-- Settles O7: the issue of the command, on either side. -/
theorem commandIsOneWriteOfItsWord : Obligations.CommandIsOneWriteOfItsWord :=
  fun op s hd => (Machine.exec_instr_of_not_due op hd).trans (Machine.exec_wr_cmd (encodeCmd op) s).symm

end Sys2Proof
end

section
/-! SUPPORT. Issue, condition by condition (30_encoding.md R84), and the legal words (R81, R192). -/

namespace Sys2Proof

/-- A word is a command word exactly if its number is that of a row of the opcode map that `p` picks. -/
theorem toNat_mem_map_encodeCmd {p : Opcode → Bool} {w : Word} :
    w.toNat ∈ (Opcode.all.filter p).map (fun op => (encodeCmd op).toNat) ↔
      ∃ op, p op = true ∧ w = encodeCmd op := by
  simp only [List.mem_map, List.mem_filter, Opcode.mem_all, true_and, BitVec.toNat_inj, eq_comm (a := w)]

/-- The 18 legal words are the command words (30_encoding.md R81). -/
theorem mem_legalWords_iff {w : Word} : w.toNat ∈ Machine.legalWords ↔ ∃ op, w = encodeCmd op :=
  (toNat_mem_map_encodeCmd (p := fun _ => true)).trans (by simp)

/-- The words 0x20 to 0x23 are those of the commands that need the key (30_encoding.md R82). -/
theorem mem_keyWords_iff {w : Word} :
    w.toNat ∈ [0x20, 0x21, 0x22, 0x23] ↔ ∃ op, Machine.needsKey op = true ∧ w = encodeCmd op :=
  toNat_mem_map_encodeCmd (p := Machine.needsKey)

theorem encodeCmd_injective {a b : Opcode} (h : encodeCmd a = encodeCmd b) : a = b := by
  simpa using congrArg decodeCmd h

/-- A word decodes exactly if it is one of the 18 legal words. -/
theorem exists_decode_cmd32_iff (w : Word) :
    (∃ i, decode (.cmd32 w) = .ok i) ↔ w.toNat ∈ Machine.legalWords := by
  rw [mem_legalWords_iff]
  constructor
  · rintro ⟨i, h⟩
    obtain ⟨op, -, hw⟩ := Machine.eq_instr_of_decode_cmd32 h
    exact ⟨op, hw⟩
  · rintro ⟨op, rfl⟩
    exact ⟨op.instr, decode_cmd32_encodeCmd op⟩

/-- The field RSV is 0 exactly in the words below 0x100. -/
theorem rsv_eq_zero_iff (w : Word) : w.extractLsb' 8 24 = 0 ↔ w.toNat < 0x100 := by
  have hz : BitVec.toNat (0 : BitVec 24) = 0 := rfl
  rw [← BitVec.toNat_inj, BitVec.extractLsb'_toNat, hz, Nat.shiftRight_eq_div_pow]
  omega

theorem decodeCmd_rsvNonzero_iff (w : Word) : decodeCmd w = .bad .rsvNonzero ↔ w.extractLsb' 8 24 ≠ 0 := by
  unfold decodeCmd
  by_cases hr : w.extractLsb' 8 24 = 0
  · rw [if_pos hr]
    cases decodeOp (w.extractLsb' 0 8) <;> simp [hr]
  · exact iff_of_true (if_neg hr) hr

theorem decode_cmd32_bad_iff {w : Word} {e : DecodeError} :
    decode (.cmd32 w) = .bad e ↔ decodeCmd w = .bad e := by
  cases hd : decodeCmd w <;> simp [decode, hd]

/-- A word is refused for RSV exactly if it is 0x100 or more. -/
theorem decode_cmd32_rsvNonzero_iff (w : Word) : decode (.cmd32 w) = .bad .rsvNonzero ↔ 0x100 ≤ w.toNat := by
  rw [decode_cmd32_bad_iff, decodeCmd_rsvNonzero_iff, Ne, rsv_eq_zero_iff, Nat.not_lt]

end Sys2Proof

namespace Sys2Proof.Machine

/-- While a command runs, any word but that of SRST is dropped. -/
theorem issue_of_busy {v : Word} {s : State} (hb : s.busy = true) (hv : v ≠ encodeCmd .srst) :
    issue v s = raiseError .busy s := by
  rw [issue, if_pos hb, if_neg hv]

/-- The word of SRST resets the core, BUSY or not. -/
theorem issue_srst (s : State) : issue (encodeCmd .srst) s = resetAll s := by
  unfold issue
  split
  · exact if_pos rfl
  · rfl

/-- With no command running, an illegal word is rejected. -/
theorem issue_of_illegal {v : Word} {s : State} (hb : s.busy = false) (hv : v.toNat ∉ legalWords) :
    issue v s = raiseError .illegal { s with cmd := v, done := false } := by
  cases hd : decodeCmd v with
  | bad e => simp [issue, hb, hd]
  | ok op => exact absurd (mem_legalWords_iff.2 ⟨op, (encodeCmd_of_decodeCmd hd).symm⟩) hv

/-- With no command running, a cipher command without its key is rejected. -/
theorem issue_without_key {op : Opcode} {s : State} (hb : s.busy = false) (hk : needsKey op = true)
    (hv : s.keyv = false) :
    issue (encodeCmd op) s = raiseError .noKey { s with cmd := encodeCmd op, done := false } := by
  have hs : op ≠ .srst := by rintro rfl; cases hk
  simp [issue, hb, hk, hv, hs]

/-- With no command running, any other command is accepted. -/
theorem issue_accepted {op : Opcode} {s : State} (hb : s.busy = false) (hs : op ≠ .srst)
    (hk : needsKey op = true → s.keyv = true) :
    issue (encodeCmd op) s = accept op { s with cmd := encodeCmd op, done := false } := by
  have hr : ¬(needsKey op && !s.keyv) = true := by simpa using hk
  simp only [issue, hb, Bool.false_eq_true, decodeCmd_encodeCmd, hs, hr, if_false]

/-- Settles O2: the legal words are the command words, and issue rejects or drops any other. -/
theorem illegalWordsAreRejected : Obligations.IllegalWordsAreRejected := by
  refine fun w => ⟨exists_decode_cmd32_iff w, decode_cmd32_rsvNonzero_iff w,
    fun hw s => ⟨fun hb => ?idle, fun hb => ?busy⟩⟩
  case idle => rw [exec_wr_cmd, issue_of_illegal hb hw, raiseError]
  case busy =>
    have hv : w ≠ encodeCmd .srst := fun h => hw (mem_legalWords_iff.2 ⟨.srst, h⟩)
    rw [exec_wr_cmd, issue_of_busy hb hv, raiseError]

/-- KEYV after acceptance, by the command's word. -/
theorem keyv_after_accept (op : Opcode) (k : Bool) :
    (k && !rebuildsContext op) = if encodeCmd op = 0x12 ∨ encodeCmd op = 0x31 then false else k := by
  have hr : (encodeCmd op = 0x12 ∨ encodeCmd op = 0x31) ↔ rebuildsContext op = true := by
    rw [rebuildsContext_iff]
    exact or_congr ⟨encodeCmd_injective (b := .setkey), congrArg encodeCmd⟩
      ⟨encodeCmd_injective (b := .hblk), congrArg encodeCmd⟩
  simp only [hr]
  cases rebuildsContext op <;> simp

/-- Settles O8: one equation of `issue` for each condition. -/
theorem issueDecidesInOrder : Obligations.IssueDecidesInOrder := by
  intro s v
  simp only [exec_wr_cmd]
  refine ⟨?busySrst, ?dropped, ?illegal, ?idleSrst, ?noKey, ?accepted⟩
  case busySrst => rintro - rfl; exact congrArg _ (issue_srst s)
  case dropped => intro hb hv; rw [issue_of_busy hb hv, raiseError]
  case illegal => intro hb hv; rw [issue_of_illegal hb hv, raiseError]
  case idleSrst => rintro - rfl; exact congrArg _ (issue_srst s)
  case noKey =>
    intro hb hv hk
    obtain ⟨op, hn, rfl⟩ := mem_keyWords_iff.1 hv
    rw [issue_without_key hb hn hk, raiseError]
  case accepted =>
    rintro op hb rfl hs hk
    refine ⟨Config.latency op s.draws, ?_⟩
    rw [← encodeCmd, ← keyv_after_accept, issue_accepted hb hs fun hn => hk (mem_keyWords_iff.2 ⟨op, hn, rfl⟩),
      accept]

end Sys2Proof.Machine
end

section
/-! SUPPORT. The results of a command depend on the registers it reads only (30_encoding.md R82, R85). -/

namespace Sys2Proof.Machine

/-- The byte operand of a register is its low byte. -/
theorem byteOperand_eq_setWidth (w : Word) : byteOperand w = w.setWidth 8 :=
  BitVec.setWidth_eq_extractLsb' (by decide) |>.symm

/-- No command writes STATUS (20_memory.md R66). -/
theorem ne_status_of_writes {op : Opcode} {r : Reg} (h : writes op r = true) : r ≠ .status := by
  rintro rfl
  cases op <;> cases h

/-- The pseudocode of a command gives the registers of its write set the same values in two states that agree
on what it reads. -/
theorem regValue_effect_of_readsAgree {op : Opcode} {r : Reg} {s u : State} (h : readsAgree op s u)
    (hw : writes op r = true) : regValue (effect op s) r = regValue (effect op u) r := by
  cases op with
  | nop | srst => cases hw
  | gfmul | sbox0 | sbox1 | mix0 | mix1 | f0 | f1 =>
    cases r with
    | res => simp only [readsAgree] at h; simp only [regValue, effect, byteOperand_eq_setWidth, h]
    | _ => cases hw
  | sigma | ksexp | gfnf | gfni | enc | dec =>
    cases r with
    | dout j => simp only [readsAgree] at h; simp only [regValue, effect, h]
    | _ => cases hw
  | setkey =>
    cases r with
    | wk j | ksl j | rk j => simp only [readsAgree] at h; simp [regValue, effect, h]
    | _ => cases hw
  | hinit =>
    cases r with
    | hst j => rfl
    | _ => cases hw
  | hblk =>
    cases r with
    | key j | wk j | ksl j | rk j | hst j | dout j => simp only [readsAgree] at h; simp [regValue, effect, h]
    | _ => cases hw

/-- Settles O25: the end of the command leaves what its pseudocode wrote. -/
theorem resultDependsOnlyOnTheRegistersRead : Obligations.ResultDependsOnlyOnTheRegistersRead := by
  intro op s u t v hs hu ha ht hv r hw
  have hne : op ≠ .srst := by rintro rfl; cases hw
  have hr := ne_status_of_writes hw
  rw [exec_instr_of_due hne hs] at ht
  rw [exec_instr_of_due hne hu] at hv
  cases ht
  cases hv
  rw [regValue_finish hr, regValue_finish hr, regValue_effect_of_readsAgree ha hw]

end Sys2Proof.Machine
end

section
/-! SUPPORT. A command issued and polled for (30_encoding.md R88). -/

namespace Sys2Proof.Machine

theorem statusWord_getLsbD_zero (s : State) : (statusWord s).getLsbD 0 = s.busy := by
  rw [statusWord, BitVec.getLsbD_setWidth]
  simp only [BitVec.getLsbD_append]
  simp

/-- After a poll, the line stays in the host list exactly if the value read has bit 0 = 1. -/
theorem retire_poll (s : State) :
    retire .poll s = tick { s with host := if s.rdata.getLsbD 0 then .poll :: s.host else s.host } := by
  by_cases h : s.rdata.getLsbD 0 = true
  · rw [if_pos h]
    exact if_pos h
  · rw [if_neg h]
    exact if_neg h

/-- A poll while no Complete step is due reads STATUS; the line stays while a command runs. -/
theorem step_of_poll {s : State} {rest : List HostLine} (hc : completing s = false)
    (hh : s.host = .poll :: rest) :
    step s = .next (tick { s with host := if s.busy then .poll :: rest else rest, rdata := statusWord s }) := by
  have hm : nextMove s = .transaction (.rd 0x02) { s with host := rest } .poll := by
    simp [nextMove, hc, hh, Reg.addr]
  unfold step
  simp only [hm, exec_rd_status, mapNext_next, retire_poll, statusWord_getLsbD_zero]
  rfl

/-- The cycle that issues a command which is accepted. -/
theorem step_of_issue {op : Opcode} {s : State} {rest : List HostLine} (hb : s.busy = false) (hs : op ≠ .srst)
    (hk : needsKey op = true → s.keyv = true) (hh : s.host = .cycle (Pins.issue (encodeCmd op)) :: rest) :
    step s = .next (tick (accept op { s with cmd := encodeCmd op, done := false, host := rest })) := by
  rw [step_of_ofCode (c := .cmd32 (encodeCmd op)) (completing_of_idle hb) hh (decode_cmd32_encodeCmd op),
    exec_instr_of_not_due op (by simp [hb]), issue_accepted (s := { s with host := rest }) hb hs hk, mapNext_next]

/-- The host polls for the running command, of whose latency `n` is left. -/
def polling (n : Nat) (s : State) : State := { s with lat := n, host := [.poll] }

/-- The state in which polling for the running command ends: that of its Complete step, with STATUS on the
output port and no host line left. -/
def polledResult (op : Opcode) (s : State) : State :=
  let u := finish (effect op { s with lat := 0, host := [] })
  { u with rdata := statusWord u }

/-- What the output port held before has no part in that state. -/
theorem polledResult_with_rdata (op : Opcode) (s : State) (r : Word) :
    polledResult op { s with rdata := r } = polledResult op s := by
  cases op <;> rfl

/-- The draw counter is carried into that state and has no other part in it. -/
theorem polledResult_with_draws (op : Opcode) (s : State) (d : Nat) :
    polledResult op { s with draws := d } = { polledResult op s with draws := d } := by
  cases op <;> rfl

/-- The poll after the Complete step leaves that state. -/
theorem tick_poll_after_complete (op : Opcode) (s : State) :
    tick { finish (effect op (polling 0 s)) with
      host := [], rdata := statusWord (finish (effect op (polling 0 s))) } = polledResult op s := by
  cases op <;> rfl

/-- A poll before the Complete step uses up one step of the latency. -/
theorem step_polling_succ (n : Nat) {s : State} (hb : s.busy = true) :
    step (polling (n + 1) s) = .next (polling n { s with rdata := statusWord s }) := by
  have hb' : (polling (n + 1) s).busy = true := hb
  rw [step_of_poll (rest := []) (by simp [completing, polling]) rfl, if_pos hb', tick, if_pos hb']
  rfl

/-- The Complete step is taken when the latency is over. -/
theorem step_polling_zero {op : Opcode} (hs : op ≠ .srst) {s : State} (hb : s.busy = true) (hp : s.pend = op) :
    step (polling 0 s) = .next (finish (effect op (polling 0 s))) := by
  subst hp
  exact step_of_completing_of_ne_srst (s := polling 0 s) ((completing_iff _).2 ⟨hb, rfl⟩) hs

/-- Polling for a running command ends one step after its Complete step, whatever is left of its latency. -/
theorem run_polling {op : Opcode} (hs : op ≠ .srst) (n : Nat) {s : State} (hb : s.busy = true)
    (hp : s.pend = op) : Host.Core.run core (n + 2) (polling n s) = .next (polledResult op s) := by
  induction n generalizing s with
  | zero =>
    have hq := step_of_poll (s := finish (effect op (polling 0 s))) (rest := []) rfl (effect_host op _)
    rw [← tick_poll_after_complete op s]
    exact (core_run_succ (step_polling_zero hs hb hp) 1).trans (core_run_succ hq 0)
  | succ n ih =>
    rw [← polledResult_with_rdata op s (statusWord s)]
    exact (core_run_succ (step_polling_succ n hb) (n + 2)).trans (ih hb hp)

/-- Settles O30: the issue, and then polling for whatever latency was drawn. -/
theorem runOfACommandEndsInItsResult : Obligations.RunOfACommandEndsInItsResult := by
  intro op s hs hb hk hh
  have hi : step s = .next (polling (Config.latency op s.draws)
      (accept op { s with cmd := encodeCmd op, done := false })) := step_of_issue hb hs hk hh
  have hp := run_polling hs (Config.latency op s.draws)
    (s := accept op { s with cmd := encodeCmd op, done := false }) rfl rfl
  exact ⟨_, _, _, (core_run_succ hi _).trans hp, exec_instr_of_due hs ⟨rfl, rfl, rfl⟩,
    polledResult_with_draws op
      { accept op { s with cmd := encodeCmd op, done := false } with draws := s.draws } (s.draws + 1)⟩

end Sys2Proof.Machine
end

section
/-! SUPPORT. GFmul by Horner's rule: it is linear in its first operand and commutes with the multiplication by
x, and every byte is built from 1 by sums and multiplications by x (40_field.md R100). -/

namespace Sys2Proof.Machine

/-- Multiplication by x is a shift and the reduction of the bit shifted out. -/
theorem timesX_eq (a : Byte) : timesX a = (a <<< 1) ^^^ (if a.getLsbD 7 then 0x1D else 0) := by
  unfold timesX
  split <;> simp

@[simp] theorem timesX_zero : timesX 0#8 = 0#8 := by decide

theorem timesX_xor (a b : Byte) : timesX (a ^^^ b) = timesX a ^^^ timesX b := by
  have hbit (c d : Bool) : (if c ^^ d then (0x1D : Byte) else 0) =
      (if c then 0x1D else 0) ^^^ (if d then 0x1D else 0) := by
    cases c <;> cases d <;> rfl
  simp only [timesX_eq, BitVec.getLsbD_xor, BitVec.shiftLeft_xor_distrib, hbit]
  ac_rfl

/-- A byte is its bit 0 and x times the byte of its other bits. -/
theorem bit_xor_timesX_ushiftRight (b : Byte) :
    (if b.getLsbD 0 then (1 : Byte) else 0) ^^^ timesX (b >>> 1) = b := by
  have h7 : (b >>> 1).getLsbD 7 = false := by simp
  rw [timesX_eq, h7]
  refine BitVec.eq_of_getLsbD_eq fun i hi => ?_
  cases i with
  | zero => cases b.getLsbD 0 <;> simp
  | succ i => cases b.getLsbD 0 <;> simp [hi, Nat.add_comm 1 i]

theorem toNat_ushiftRight_one_lt {b : Byte} {n : Nat} (h : b.toNat < 2 ^ (n + 1)) :
    (b >>> 1).toNat < 2 ^ n := by
  rw [BitVec.toNat_ushiftRight, Nat.shiftRight_eq_div_pow]
  omega

theorem eq_zero_of_toNat_lt_one {b : Byte} (h : b.toNat < 2 ^ 0) : b = 0 :=
  BitVec.eq_of_toNat_eq (Nat.lt_one_iff.1 h)

/-- What holds of 1 and is kept by multiplication by x and by sums holds of every byte. -/
theorem byte_induction {P : Byte → Prop} (one : P 1) (timesX : ∀ a, P a → P (timesX a))
    (xor : ∀ a b, P a → P b → P (a ^^^ b)) (b : Byte) : P b := by
  have zero : P 0 := xor 1 1 one one
  have below (n : Nat) : ∀ b : Byte, b.toNat < 2 ^ n → P b := by
    induction n with
    | zero =>
      intro b hb
      rwa [eq_zero_of_toNat_lt_one hb]
    | succ n ih =>
      intro b hb
      rw [← bit_xor_timesX_ushiftRight b]
      refine xor _ _ ?_ (timesX _ (ih _ (toNat_ushiftRight_one_lt hb)))
      split <;> assumption
  exact below 8 b b.isLt

theorem gfmulLoop_no_iteration (p a b : Byte) : gfmulLoop 0 p a b = p := rfl

theorem gfmulLoop_iteration (n : Nat) (p a b : Byte) :
    gfmulLoop (n + 1) p a b = gfmulLoop n (if b.getLsbD 0 then p ^^^ a else p) (timesX a) (b >>> 1) := rfl

/-- The loop adds to its running sum. -/
theorem gfmulLoop_eq_xor (n : Nat) (p a b : Byte) : gfmulLoop n p a b = p ^^^ gfmulLoop n 0 a b := by
  induction n generalizing p a b with
  | zero => simp [gfmulLoop_no_iteration]
  | succ n ih =>
    rw [gfmulLoop_iteration, gfmulLoop_iteration, ih, ih (if b.getLsbD 0 then 0 ^^^ a else 0)]
    cases b.getLsbD 0 <;> simp [BitVec.xor_assoc]

theorem gfmulLoop_timesX (n : Nat) (p a b : Byte) :
    gfmulLoop n (timesX p) (timesX a) b = timesX (gfmulLoop n p a b) := by
  induction n generalizing p a b with
  | zero => rfl
  | succ n ih =>
    rw [gfmulLoop_iteration, gfmulLoop_iteration, ← ih]
    cases b.getLsbD 0 <;> simp [timesX_xor]

/-- Horner's rule for the loop: bit 0 of the second operand, and x times the loop on its other bits. -/
theorem gfmulLoop_succ (n : Nat) (a b : Byte) :
    gfmulLoop (n + 1) 0 a b = (if b.getLsbD 0 then a else 0) ^^^ timesX (gfmulLoop n 0 a (b >>> 1)) := by
  rw [← gfmulLoop_timesX, gfmulLoop_iteration, gfmulLoop_eq_xor]
  simp

theorem gfmulLoop_xor (n : Nat) (a c b : Byte) :
    gfmulLoop n 0 (a ^^^ c) b = gfmulLoop n 0 a b ^^^ gfmulLoop n 0 c b := by
  induction n generalizing b with
  | zero => simp [gfmulLoop_no_iteration]
  | succ n ih =>
    simp only [gfmulLoop_succ, ih, timesX_xor]
    cases b.getLsbD 0
    · simp
    · simp only [if_true]
      ac_rfl

/-- On 1, the loop gives its second operand back, as far as its iterations reach. -/
theorem gfmulLoop_one {n : Nat} {b : Byte} (h : b.toNat < 2 ^ n) : gfmulLoop n 0 1 b = b := by
  induction n generalizing b with
  | zero => rw [eq_zero_of_toNat_lt_one h, gfmulLoop_no_iteration]
  | succ n ih => rw [gfmulLoop_succ, ih (toNat_ushiftRight_one_lt h), bit_xor_timesX_ushiftRight]

theorem gfmul_one_left (b : Byte) : gfmul 1 b = b := gfmulLoop_one b.isLt

theorem gfmul_timesX_left (a b : Byte) : gfmul (timesX a) b = timesX (gfmul a b) :=
  gfmulLoop_timesX 8 0 a b

theorem gfmul_xor_left (a c b : Byte) : gfmul (a ^^^ c) b = gfmul a b ^^^ gfmul c b := gfmulLoop_xor 8 a c b

end Sys2Proof.Machine
end

section
/-! SUPPORT. The laws of the field product, each by induction on its first operand (40_field.md R102). -/

namespace Sys2Proof.Machine

theorem gfmul_xor_right (a b c : Byte) : gfmul a (b ^^^ c) = gfmul a b ^^^ gfmul a c := by
  induction a using byte_induction with
  | one => simp only [gfmul_one_left]
  | timesX a ih => simp only [gfmul_timesX_left, ih, timesX_xor]
  | xor a d iha ihd =>
    simp only [gfmul_xor_left, iha, ihd]
    ac_rfl

theorem gfmul_timesX_right (a b : Byte) : gfmul a (timesX b) = timesX (gfmul a b) := by
  induction a using byte_induction with
  | one => simp only [gfmul_one_left]
  | timesX a ih => simp only [gfmul_timesX_left, ih]
  | xor a c iha ihc => simp only [gfmul_xor_left, iha, ihc, timesX_xor]

theorem gfmul_one_right (a : Byte) : gfmul a 1 = a := by
  induction a using byte_induction with
  | one => rw [gfmul_one_left]
  | timesX a ih => rw [gfmul_timesX_left, ih]
  | xor a c iha ihc => rw [gfmul_xor_left, iha, ihc]

theorem gfmul_comm (a b : Byte) : gfmul a b = gfmul b a := by
  induction a using byte_induction with
  | one => rw [gfmul_one_left, gfmul_one_right]
  | timesX a ih => rw [gfmul_timesX_left, gfmul_timesX_right, ih]
  | xor a c iha ihc => rw [gfmul_xor_left, gfmul_xor_right, iha, ihc]

theorem gfmul_assoc (a b c : Byte) : gfmul (gfmul a b) c = gfmul a (gfmul b c) := by
  induction a using byte_induction with
  | one => simp only [gfmul_one_left]
  | timesX a ih => simp only [gfmul_timesX_left, ih]
  | xor a d iha ihd => simp only [gfmul_xor_left, iha, ihd]

theorem gfmul_zero_left (b : Byte) : gfmul 0 b = 0 := by
  simpa using gfmul_xor_left 0 0 b

theorem gfmul_zero_right (a : Byte) : gfmul a 0 = 0 := by
  rw [gfmul_comm, gfmul_zero_left]

/-- Multiplication by 0x02 is multiplication by x. -/
theorem gfmul_two : gfmul 0x02 = timesX := by
  funext b
  have h2 : (0x02 : Byte) = timesX 1 := by decide
  rw [h2, gfmul_timesX_left, gfmul_one_left]

theorem gfmul_iterate_timesX (n : Nat) (a b : Byte) : gfmul (timesX^[n] a) b = timesX^[n] (gfmul a b) :=
  Function.Semiconj.iterate_right (f := (gfmul · b)) (fun a => gfmul_timesX_left a b) n a

/-- The powers of x multiply. -/
theorem timesX_iterate_add (m n : Nat) : timesX^[m + n] 1 = gfmul (timesX^[m] 1) (timesX^[n] 1) := by
  rw [gfmul_iterate_timesX, gfmul_one_left, Function.iterate_add_apply]

theorem timesX_iterate_three_times {n m : Nat} {a c : Byte} (ha : timesX^[n] 1 = a) (hm : m = n + n + n)
    (hc : gfmul (gfmul a a) a = c) : timesX^[m] 1 = c := by
  rw [hm, timesX_iterate_add, timesX_iterate_add, ha, hc]

theorem timesX_iterate_15 : timesX^[15] 1 = 0x26 :=
  timesX_iterate_three_times (n := 5) rfl rfl rfl

theorem timesX_iterate_17 : timesX^[17] 1 = 0x98 := by
  rw [timesX_iterate_add 15 2, timesX_iterate_15]
  rfl

theorem timesX_iterate_51 : timesX^[51] 1 = 0x0A :=
  timesX_iterate_three_times timesX_iterate_17 rfl rfl

theorem timesX_iterate_85 : timesX^[85] 1 = 0xD6 := by
  rw [timesX_iterate_add (51 + 17) 17, timesX_iterate_add 51 17, timesX_iterate_51, timesX_iterate_17]
  rfl

theorem timesX_iterate_255 : timesX^[255] 1 = 1 :=
  timesX_iterate_three_times timesX_iterate_85 rfl rfl

/-- The powers of x come back to 1 after 255 = 3 · 5 · 17 steps, and not after 15, 51 or 85. -/
theorem minimalPeriod_timesX_one : Function.minimalPeriod timesX 1 = 255 := by
  have hmax : ∀ d ∈ Nat.properDivisors 255, d ∣ 15 ∨ d ∣ 51 ∨ d ∣ 85 := by decide
  have hno {d : Nat} (hn : timesX^[d] 1 ≠ 1) : ¬ Function.minimalPeriod timesX 1 ∣ d :=
    fun hd => hn (Function.isPeriodicPt_iff_minimalPeriod_dvd.2 hd)
  have h255 : Function.minimalPeriod timesX 1 ∣ 255 :=
    Function.IsPeriodicPt.minimalPeriod_dvd timesX_iterate_255
  refine (Nat.le_of_dvd (by decide) h255).eq_of_not_lt fun hlt => ?_
  obtain h | h | h := hmax _ (Nat.mem_properDivisors.2 ⟨h255, hlt⟩)
  · exact hno (timesX_iterate_15 ▸ by decide) h
  · exact hno (timesX_iterate_51 ▸ by decide) h
  · exact hno (timesX_iterate_85 ▸ by decide) h

theorem timesX_iterate_zero (n : Nat) : timesX^[n] 0 = 0 := Function.iterate_fixed timesX_zero n

/-- No power of x is 0, for one of its multiples is 1. -/
theorem timesX_iterate_one_ne_zero {n : Nat} (hn : n < 255) : timesX^[n] 1 ≠ 0 := by
  intro h
  have h1 := timesX_iterate_255
  rw [← Nat.sub_add_cancel hn.le, Function.iterate_add_apply, h, timesX_iterate_zero] at h1
  exact absurd h1 (by decide)

/-- Every byte but 0 is a power of x: the 255 powers differ, and there are 255 such bytes. -/
theorem exists_timesX_iterate_eq {a : Byte} (ha : a ≠ 0) : ∃ n < 255, timesX^[n] 1 = a := by
  have hsurj := Finset.surjOn_of_injOn_of_card_le (s := Finset.range 255) (t := {0}ᶜ) (timesX^[·] 1)
    (fun n hn => by simpa using timesX_iterate_one_ne_zero (Finset.mem_range.1 hn))
    (fun n hn m hm h => (Function.iterate_eq_iterate_iff_of_lt_minimalPeriod
      (minimalPeriod_timesX_one ▸ Finset.mem_range.1 hn)
      (minimalPeriod_timesX_one ▸ Finset.mem_range.1 hm)).1 h)
    (by rw [Finset.card_compl, ← FinEnum.card_eq_fintypeCard]; simp)
  obtain ⟨n, hn, h⟩ := hsurj (show a ∈ _ by simpa using ha)
  exact ⟨n, by simpa using hn, h⟩

/-- The power of x that completes a byte to x^255 is its inverse. -/
theorem exists_gfmul_eq_one {a : Byte} (ha : a ≠ 0) : ∃ b, gfmul a b = 1 := by
  obtain ⟨n, hn, rfl⟩ := exists_timesX_iterate_eq ha
  refine ⟨timesX^[255 - n] 1, ?_⟩
  rw [gfmul_iterate_timesX, gfmul_one_left, ← Function.iterate_add_apply, Nat.add_sub_cancel' hn.le,
    timesX_iterate_255]

/-- A byte has one inverse. -/
theorem eq_of_gfmul_eq_one {a b c : Byte} (hb : gfmul a b = 1) (hc : gfmul a c = 1) : c = b := by
  rw [← gfmul_one_left c, ← hb, gfmul_comm a b, gfmul_assoc, hc, gfmul_one_right]

/-- Settles O32: the ring laws by induction on the first operand, inverses and the order from the powers of x. -/
theorem gfmulIsAFieldProduct : Obligations.GfmulIsAFieldProduct := by
  refine ⟨gfmul_comm, gfmul_assoc, gfmul_xor_right, fun b => ⟨gfmul_one_left b, gfmul_zero_left b⟩,
    fun a ha => ?inverse, fun n h0 hn => ?order, ?period⟩
  case inverse =>
    obtain ⟨b, hb⟩ := exists_gfmul_eq_one ha
    exact ⟨b, hb, fun c hc => eq_of_gfmul_eq_one hb hc⟩
  case order =>
    rw [gfmul_two]
    exact Function.not_isPeriodicPt_of_pos_of_lt_minimalPeriod h0.ne' (minimalPeriod_timesX_one ▸ hn)
  case period => rw [gfmul_two, timesX_iterate_255]

end Sys2Proof.Machine
end

section
/-! SUPPORT. The Complete steps of the commands that write RES (40_field.md R101, 41_sbox.md R112 and R113,
42_round.md R124–R127). -/

namespace Sys2Proof.Machine

/-- Settles O18: each is the end of its pseudocode, whose byte operands are bits 7:0. -/
theorem primitiveCommandsWriteRes : Obligations.PrimitiveCommandsWriteRes := by
  intro s
  simp only [← byteOperand_eq_setWidth]
  exact ⟨exec_instr_of_due (op := .gfmul) nofun, exec_instr_of_due (op := .sbox0) nofun,
    exec_instr_of_due (op := .sbox1) nofun, exec_instr_of_due (op := .mix0) nofun,
    exec_instr_of_due (op := .mix1) nofun, exec_instr_of_due (op := .f0) nofun,
    exec_instr_of_due (op := .f1) nofun⟩

end Sys2Proof.Machine
end

section
/-! SUPPORT. The carry-less product, and reduction modulo 0x11D (40_field.md R100). -/

namespace Sys2Proof.Machine

/-- The copy of `a` that bit `i` of `b` adds to the carry-less product. -/
def shiftedCopy (a b : BitVec 16) (i : Nat) : BitVec 16 := if b.getLsbD i then a <<< i else 0

theorem carrylessProduct_eq (a b : BitVec 16) :
    carrylessProduct a b = shiftedCopy a b 0 ^^^ shiftedCopy a b 1 ^^^ shiftedCopy a b 2 ^^^
      shiftedCopy a b 3 ^^^ shiftedCopy a b 4 ^^^ shiftedCopy a b 5 ^^^ shiftedCopy a b 6 ^^^
      shiftedCopy a b 7 := by
  have hstep : (fun acc i => if b.getLsbD i then acc ^^^ (a <<< i) else acc) =
      fun acc i => acc ^^^ shiftedCopy a b i := by
    funext acc i
    unfold shiftedCopy
    split <;> simp
  rw [carrylessProduct, hstep]
  simp [List.range_succ]

theorem shiftedCopy_xor (a b c : BitVec 16) (i : Nat) :
    shiftedCopy a (b ^^^ c) i = shiftedCopy a b i ^^^ shiftedCopy a c i := by
  unfold shiftedCopy
  rw [BitVec.getLsbD_xor]
  cases b.getLsbD i <;> cases c.getLsbD i <;> simp

theorem carrylessProduct_xor (a b c : BitVec 16) :
    carrylessProduct a (b ^^^ c) = carrylessProduct a b ^^^ carrylessProduct a c := by
  simp only [carrylessProduct_eq, shiftedCopy_xor]
  ac_rfl

@[simp] theorem carrylessProduct_zero (a : BitVec 16) : carrylessProduct a 0#16 = 0#16 := by
  simpa using carrylessProduct_xor a 0 0

@[simp] theorem carrylessProduct_one (a : BitVec 16) : carrylessProduct a 1#16 = a := by
  simp [carrylessProduct_eq, shiftedCopy]

theorem shiftedCopy_shiftLeft_zero (a b : BitVec 16) : shiftedCopy a (b <<< 1) 0 = 0 := by
  simp [shiftedCopy]

theorem shiftedCopy_shiftLeft_succ (a b : BitVec 16) {i : Nat} (hi : i < 7) :
    shiftedCopy a (b <<< 1) (i + 1) = shiftedCopy a b i <<< 1 := by
  have hb : (b <<< 1).getLsbD (i + 1) = b.getLsbD i := by
    simp
    omega
  unfold shiftedCopy
  rw [hb, BitVec.shiftLeft_add]
  split <;> simp

/-- Where bit 7 of the second factor is 0, a shift of it shifts the product. -/
theorem carrylessProduct_shiftLeft (a : BitVec 16) {b : BitVec 16} (hb : b.getLsbD 7 = false) :
    carrylessProduct a (b <<< 1) = carrylessProduct a b <<< 1 := by
  have h7 : shiftedCopy a b 7 = 0 := by rw [shiftedCopy, hb]; rfl
  simp [carrylessProduct_eq, shiftedCopy_shiftLeft_zero, shiftedCopy_shiftLeft_succ, h7,
    BitVec.shiftLeft_xor_distrib]

/-- `x` leaves the byte `r` when a multiple of 0x11D by a quotient of degree below `n` is taken off. -/
def Reduces (n : Nat) (x : BitVec 16) (r : Byte) : Prop :=
  ∃ q : BitVec 16, q.toNat < 2 ^ n ∧ x = carrylessProduct 0x11D q ^^^ r.setWidth 16

theorem reduces_setWidth (n : Nat) (r : Byte) : Reduces n (r.setWidth 16) r :=
  ⟨0, Nat.two_pow_pos n, by simp⟩

theorem Reduces.xor {n : Nat} {x y : BitVec 16} {r t : Byte} (hx : Reduces n x r) (hy : Reduces n y t) :
    Reduces n (x ^^^ y) (r ^^^ t) := by
  obtain ⟨q, hq, rfl⟩ := hx
  obtain ⟨k, hk, rfl⟩ := hy
  refine ⟨q ^^^ k, BitVec.toNat_xor q k ▸ Nat.xor_lt_two_pow hq hk, ?_⟩
  rw [carrylessProduct_xor, BitVec.setWidth_xor]
  ac_rfl

/-- Multiplication by x in 16 bits is a shift, with 0x11D taken off where bit 7 was set. -/
theorem setWidth_timesX : ∀ r : Byte,
    (timesX r).setWidth 16 = (r.setWidth 16 <<< 1) ^^^ (if r.getLsbD 7 then 0x11D else 0) := by decide

/-- A shift raises the degree of the quotient by one, and multiplies the remainder by x. -/
theorem Reduces.shiftLeft {n : Nat} (hn : n ≤ 7) {x : BitVec 16} {r : Byte} (hx : Reduces n x r) :
    Reduces (n + 1) (x <<< 1) (timesX r) := by
  obtain ⟨q, hq, rfl⟩ := hx
  have h7 : q.getLsbD 7 = false :=
    Nat.testBit_lt_two_pow (hq.trans_le (Nat.pow_le_pow_right (by decide) hn))
  refine ⟨(q <<< 1) ^^^ (if r.getLsbD 7 then 1 else 0), ?degree, ?product⟩
  case degree =>
    rw [BitVec.toNat_xor]
    refine Nat.xor_lt_two_pow ?_ (by split <;> simp)
    rw [BitVec.toNat_shiftLeft, Nat.shiftLeft_eq, pow_succ]
    omega
  case product =>
    rw [carrylessProduct_xor, carrylessProduct_shiftLeft _ h7, setWidth_timesX, BitVec.shiftLeft_xor_distrib]
    split <;> simp [BitVec.xor_assoc]

/-- A second factor of one bit gives a product with nothing to reduce. -/
theorem carrylessProduct_bit_reduces (n : Nat) (a : Byte) (c : Bool) :
    Reduces n (carrylessProduct (a.setWidth 16) ((if c then (1 : Byte) else 0).setWidth 16))
      (gfmul a (if c then 1 else 0)) := by
  cases c
  · change Reduces n (carrylessProduct _ 0#16) (gfmul a 0)
    rw [carrylessProduct_zero, gfmul_zero_right]
    exact reduces_setWidth n 0
  · change Reduces n (carrylessProduct _ 1#16) (gfmul a 1)
    rw [carrylessProduct_one, gfmul_one_right]
    exact reduces_setWidth n a

/-- A second factor of `n + 1` bits gives a quotient of degree below `n`, by Horner's rule on its bits. -/
theorem carrylessProduct_reduces (a : Byte) {n : Nat} (hn : n ≤ 7) {b : Byte} (hb : b.toNat < 2 ^ (n + 1)) :
    Reduces n (carrylessProduct (a.setWidth 16) (b.setWidth 16)) (gfmul a b) := by
  induction n generalizing b with
  | zero =>
    rw [← bit_xor_timesX_ushiftRight b, eq_zero_of_toNat_lt_one (toNat_ushiftRight_one_lt hb)]
    simpa using carrylessProduct_bit_reduces 0 a (b.getLsbD 0)
  | succ n ih =>
    have hshift := (ih (by omega) (toNat_ushiftRight_one_lt hb)).shiftLeft (by omega)
    rw [← carrylessProduct_shiftLeft _ (by simp), ← gfmul_timesX_right] at hshift
    have hsum := (carrylessProduct_bit_reduces (n + 1) a (b.getLsbD 0)).xor hshift
    have hx : (b >>> 1).setWidth 16 <<< 1 = (timesX (b >>> 1)).setWidth 16 := by simp [setWidth_timesX]
    rwa [hx, ← carrylessProduct_xor, ← gfmul_xor_right, ← BitVec.setWidth_xor, bit_xor_timesX_ushiftRight]
      at hsum

/-- Settles O31: the second factor has 8 bits, so the quotient has a degree below 7. -/
theorem gfmulIsTheProductModulo11D : Obligations.GfmulIsTheProductModulo11D :=
  fun a b => carrylessProduct_reduces a (n := 7) le_rfl b.isLt

end Sys2Proof.Machine
end

section
/-! SUPPORT. The product of a matrix and a word is linear in the word, and twice the product is one product with
the square of the matrix (42_round.md R121 and R128). -/

namespace Sys2Proof.Machine

/-- A word is given by its bytes. -/
theorem word_ext {v w : Word} (h : ∀ k < 4, byteOf v k = byteOf w k) : v = w := by
  rw [← wordOf_byteOf v, ← wordOf_byteOf w, h 0 (by decide), h 1 (by decide), h 2 (by decide), h 3 (by decide)]

theorem byteOf_xor (a b : Word) (k : Nat) : byteOf (a ^^^ b) k = byteOf a k ^^^ byteOf b k :=
  BitVec.extractLsb'_xor

theorem mixRow_xor (m : List (List Byte)) (r : Nat) (a b : Word) :
    mixRow m r (a ^^^ b) = mixRow m r a ^^^ mixRow m r b := by
  simp only [mixRow, byteOf_xor, gfmul_xor_right]
  ac_rfl

/-- Byte `r` of the product is row `r` of the matrix times the word. -/
theorem byteOf_mixM (m : List (List Byte)) (w : Word) {r : Nat} (hr : r < 4) :
    byteOf (mixM m w) r = mixRow m r w := by
  refine (byteOf_wordOf _ _ _ _ ⟨r, hr⟩).trans ?_
  interval_cases r <;> rfl

theorem mixM_xor (m : List (List Byte)) (a b : Word) : mixM m (a ^^^ b) = mixM m a ^^^ mixM m b :=
  word_ext fun r hr => by simp only [byteOf_xor, byteOf_mixM _ _ hr, mixRow_xor]

/-- Row `r` of `m` times column `c` of `m`: the entry of the square of `m` in that row and column. -/
def squareEntry (m : List (List Byte)) (r c : Nat) : Byte :=
  gfmul (matrixEntry m r 0) (matrixEntry m 0 c) ^^^ gfmul (matrixEntry m r 1) (matrixEntry m 1 c) ^^^
    gfmul (matrixEntry m r 2) (matrixEntry m 2 c) ^^^ gfmul (matrixEntry m r 3) (matrixEntry m 3 c)

/-- Row `r` of a matrix times the product is row `r` of the square of the matrix times the word. -/
theorem mixRow_mixM (m : List (List Byte)) (r : Nat) (w : Word) :
    mixRow m r (mixM m w) =
      gfmul (squareEntry m r 0) (byteOf w 0) ^^^ gfmul (squareEntry m r 1) (byteOf w 1) ^^^
        gfmul (squareEntry m r 2) (byteOf w 2) ^^^ gfmul (squareEntry m r 3) (byteOf w 3) := by
  simp (disch := decide) only [mixRow, byteOf_mixM, squareEntry, gfmul_xor_left, gfmul_xor_right, gfmul_assoc]
  ac_rfl

theorem gfmul_ite_one (p : Prop) [Decidable p] (b : Byte) :
    gfmul (if p then 1 else 0) b = if p then b else 0 := by
  split
  · exact gfmul_one_left b
  · exact gfmul_zero_left b

/-- A matrix whose square is the identity is an involution. -/
theorem mixM_involutive {m : List (List Byte)}
    (h : ∀ r < 4, ∀ c < 4, squareEntry m r c = if r = c then 1 else 0) : Function.Involutive (mixM m) := by
  refine fun w => word_ext fun r hr => ?_
  rw [byteOf_mixM _ _ hr, mixRow_mixM]
  simp (disch := decide) only [h r hr, gfmul_ite_one]
  interval_cases r <;> simp

theorem mixM_m0_involutive : Function.Involutive (mixM m0) := mixM_involutive (by decide)

theorem mixM_m1_involutive : Function.Involutive (mixM m1) := mixM_involutive (by decide)

/-- Settles O33: linearity holds for every matrix, and the squares of M0 and M1 are the identity. -/
theorem diffusionIsLinearAndInvolutive : Obligations.DiffusionIsLinearAndInvolutive :=
  ⟨mixM_xor m0, mixM_xor m1, mixM_m0_involutive, mixM_m1_involutive⟩

end Sys2Proof.Machine
end

section
/-! SUPPORT. The round functions as compositions of bijections: the key, the substitution of the bytes, and the
diffusion (42_round.md R128). -/

namespace Sys2Proof.Machine

/-- The bytes `x * 2 ^ n` to `x * 2 ^ n + 2 ^ n - 1` as a table in one number, each at the place that `f` takes
it to. -/
def inverseTable (f : Byte → Byte) : Nat → Nat → Nat
  | 0, x => x <<< (8 * (f (BitVec.ofNat 8 x)).toNat)
  | n + 1, x => inverseTable f n (2 * x) ||| inverseTable f n (2 * x + 1)

/-- A map of bytes that its inverse table undoes is injective. -/
theorem injective_of_inverseTable {f : Byte → Byte}
    (h : ∀ x, inverseTable f 8 0 >>> (8 * (f x).toNat) % 256 = x.toNat) : Function.Injective f :=
  fun x y hxy => BitVec.eq_of_toNat_eq (by rw [← h x, hxy, h y])

theorem sbox0_injective : Function.Injective sbox0 := injective_of_inverseTable (by decide)

theorem sbox1_injective : Function.Injective sbox1 := injective_of_inverseTable (by decide)

/-- The substitution of the bytes of a word, in the alternating pattern of R122 and R123. -/
def substitute (f g : Byte → Byte) (w : Word) : Word :=
  wordOf (f (byteOf w 0)) (g (byteOf w 1)) (f (byteOf w 2)) (g (byteOf w 3))

/-- The bytes of even place are taken through `f`, the others through `g`. -/
theorem byteOf_substitute (f g : Byte → Byte) (w : Word) {k : Nat} (hk : k < 4) :
    byteOf (substitute f g w) k = if k % 2 = 0 then f (byteOf w k) else g (byteOf w k) := by
  refine (byteOf_wordOf _ _ _ _ ⟨k, hk⟩).trans ?_
  interval_cases k <;> rfl

theorem substitute_injective {f g : Byte → Byte} (hf : Function.Injective f) (hg : Function.Injective g) :
    Function.Injective (substitute f g) := by
  refine fun v w h => word_ext fun k hk => ?_
  have hbyte := congrArg (byteOf · k) h
  simp only [byteOf_substitute _ _ _ hk] at hbyte
  split at hbyte
  · exact hf hbyte
  · exact hg hbyte

theorem roundF0_eq (rk : Word) : roundF0 rk = mixM m0 ∘ substitute sbox0 sbox1 ∘ (rk ^^^ ·) := rfl

theorem roundF1_eq (rk : Word) : roundF1 rk = mixM m1 ∘ substitute sbox1 sbox0 ∘ (rk ^^^ ·) := rfl

theorem xor_key_injective (rk : Word) : Function.Injective (rk ^^^ ·) :=
  fun _ _ h => (BitVec.xor_right_inj rk).1 h

theorem roundF0_injective (rk : Word) : Function.Injective (roundF0 rk) := by
  rw [roundF0_eq]
  exact mixM_m0_involutive.injective.comp
    ((substitute_injective sbox0_injective sbox1_injective).comp (xor_key_injective rk))

theorem roundF1_injective (rk : Word) : Function.Injective (roundF1 rk) := by
  rw [roundF1_eq]
  exact mixM_m1_involutive.injective.comp
    ((substitute_injective sbox1_injective sbox0_injective).comp (xor_key_injective rk))

/-- Settles O34: each is injective as a composition, and the words are finitely many. -/
theorem roundFunctionsAreBijections : Obligations.RoundFunctionsAreBijections :=
  fun rk => ⟨(roundF0_injective rk).bijective_of_finite, (roundF1_injective rk).bijective_of_finite⟩

end Sys2Proof.Machine
end

section
/-! SUPPORT. The double-swap by the places of the bits and by the words, and its order from the cycles of the
places (43_key_schedule.md R143, R148). -/

namespace Sys2Proof

@[simp] theorem Block.bits_ofBits (v : BitVec 128) : (Block.ofBits v).bits = v := by
  unfold Block.bits Block.ofBits
  rw [BitVec.extractLsb'_append_extractLsb'_eq_extractLsb' (by rfl),
    BitVec.extractLsb'_append_extractLsb'_eq_extractLsb' (by rfl),
    BitVec.extractLsb'_append_extractLsb'_eq_extractLsb' (by rfl)]
  exact BitVec.extractLsb'_eq_self

/-- The words of the 128-bit view, bit by bit. -/
theorem Block.getLsbD_bits (x : Block) (i : Nat) :
    x.bits.getLsbD i =
      if i < 32 then x.w3.getLsbD i else if i < 64 then x.w2.getLsbD (i - 32)
      else if i < 96 then x.w1.getLsbD (i - 64) else x.w0.getLsbD (i - 96) := by
  show (x.w0 ++ (x.w1 ++ (x.w2 ++ x.w3)) : BitVec (32 + (32 + (32 + 32)))).getLsbD i = _
  simp only [BitVec.getLsbD_append]
  grind

@[simp] theorem Block.ofBits_bits (x : Block) : Block.ofBits x.bits = x := by
  simp (disch := decide) only [Block.ofBits, Block.bits, BitVec.extractLsb'_append_eq_of_add_le,
    BitVec.extractLsb'_append_eq_left, BitVec.extractLsb'_eq_self]

/-- Two blocks with the same bits are the same. -/
theorem Block.ext_bits {x y : Block} (h : ∀ i : Fin 128, x.bits.getLsbD i = y.bits.getLsbD i) : x = y := by
  rw [← x.ofBits_bits, ← y.ofBits_bits]
  exact congrArg _ (BitVec.eq_of_getLsbD_eq fun i hi => h ⟨i, hi⟩)

end Sys2Proof

namespace Sys2Proof.Machine

/-- The place in X of the bit at place `i` of Sigma(X). -/
def sigmaSource (i : Fin 128) : Fin 128 :=
  ⟨if i.val < 57 then i + 7 else if i.val < 64 then i + 64 else if i.val < 71 then i - 64 else i - 7,
    by split_ifs <;> omega⟩

/-- Each of the four pieces of Sigma(X) is a run of bits of X. -/
theorem getLsbD_sigmaBits (v : BitVec 128) (i : Fin 128) :
    (sigmaBits v).getLsbD i = v.getLsbD (sigmaSource i) := by
  unfold sigmaBits sigmaSource
  simp only [BitVec.getLsbD_append, BitVec.getLsbD_extractLsb']
  grind

theorem bits_sigma (x : Block) : (sigma x).bits = sigmaBits x.bits := Block.bits_ofBits _

/-- The mask 0x0000007F keeps the low 7 bits. -/
theorem getLsbD_and_low7 (w : Word) {i : Nat} (hi : i < 32) :
    (w &&& 0x0000007F).getLsbD i = (decide (i < 7) && w.getLsbD i) := by
  have hmask : ∀ i < 32, (0x0000007F : Word).getLsbD i = decide (i < 7) := by decide
  rw [BitVec.getLsbD_and, hmask i hi, Bool.and_comm]

/-- The mask 0xFE000000 keeps the high 7 bits. -/
theorem getLsbD_and_high7 (w : Word) {i : Nat} (hi : i < 32) :
    (w &&& 0xFE000000).getLsbD i = (decide (25 ≤ i) && w.getLsbD i) := by
  have hmask : ∀ i < 32, (0xFE000000 : Word).getLsbD i = decide (25 ≤ i) := by decide
  rw [BitVec.getLsbD_and, hmask i hi, Bool.and_comm]

/-- The word form of R143: a bit of Sigma(X) and its place in X each stand in one of the four words. -/
theorem sigma_eq_words (x : Block) :
    sigma x =
      ⟨(x.w0 <<< 7) ||| (x.w1 >>> 25), (x.w1 <<< 7) ||| (x.w3 &&& 0x0000007F),
        (x.w0 &&& 0xFE000000) ||| (x.w2 >>> 7), (x.w2 <<< 25) ||| (x.w3 >>> 7)⟩ := by
  refine Block.ext_bits fun ⟨i, hi⟩ => ?_
  rw [bits_sigma, getLsbD_sigmaBits, Block.getLsbD_bits, Block.getLsbD_bits]
  have hlow := getLsbD_and_low7 x.w3 (i := i - 64)
  have hhigh := getLsbD_and_high7 x.w0 (i := i - 32)
  simp only [sigmaSource, BitVec.getLsbD_or, BitVec.getLsbD_shiftLeft, BitVec.getLsbD_ushiftRight]
  grind

/-- Settles O35: the bit form is that of the definition, and the word form agrees with it bit by bit. -/
theorem sigmaInBitsAndInWords : Obligations.SigmaInBitsAndInWords :=
  fun x => ⟨bits_sigma x, sigma_eq_words x⟩

/-- The bit at place `i` after `n` double-swaps. -/
theorem getLsbD_bits_iterate_sigma (n : Nat) (x : Block) (i : Fin 128) :
    (sigma^[n] x).bits.getLsbD i = x.bits.getLsbD (sigmaSource^[n] i) := by
  induction n generalizing i with
  | zero => rfl
  | succ n ih =>
    rw [Function.iterate_succ_apply', bits_sigma, getLsbD_sigmaBits, ih, Function.iterate_succ_apply]

/-- The double-swaps come back to every block exactly if they come back to every place: a block with a single
bit tells its place. -/
theorem iterate_sigma_eq_self_iff (n : Nat) :
    (∀ x : Block, sigma^[n] x = x) ↔ ∀ i, Function.IsPeriodicPt sigmaSource n i := by
  constructor
  · intro h i
    have hbit := getLsbD_bits_iterate_sigma n (.ofBits (BitVec.twoPow 128 i)) i
    rw [h, Block.bits_ofBits] at hbit
    simpa [Fin.val_inj, Function.IsPeriodicPt, Function.IsFixedPt] using hbit
  · intro h x
    exact Block.ext_bits fun i => by rw [getLsbD_bits_iterate_sigma, h i]

/-- The places form cycles of 20 and of 18. -/
theorem isPeriodicPt_sigmaSource : ∀ i,
    Function.IsPeriodicPt sigmaSource 20 i ∨ Function.IsPeriodicPt sigmaSource 18 i := by decide +kernel

/-- Every period of a point is a multiple of its first one. -/
theorem dvd_of_isPeriodicPt {α : Type} {f : α → α} {a : α} {p n : Nat} (h0 : 0 < p)
    (hp : Function.IsPeriodicPt f p a) (hfirst : ∀ k < p, Function.IsPeriodicPt f k a → k = 0)
    (hn : Function.IsPeriodicPt f n a) : p ∣ n :=
  Nat.dvd_of_mod_eq_zero (hfirst _ (Nat.mod_lt n h0) (hn.mod hp))

/-- 180 is the least common multiple of the two lengths; place 0 is on a cycle of 20, and place 1 on one of 18. -/
theorem isPeriodicPt_sigmaSource_iff (n : Nat) :
    (∀ i, Function.IsPeriodicPt sigmaSource n i) ↔ 180 ∣ n := by
  constructor
  · intro h
    have h20 : 20 ∣ n :=
      dvd_of_isPeriodicPt (f := sigmaSource) (a := 0) (by decide) (by decide) (by decide) (h 0)
    have h18 : 18 ∣ n :=
      dvd_of_isPeriodicPt (f := sigmaSource) (a := 1) (by decide) (by decide) (by decide) (h 1)
    omega
  · intro h i
    obtain hp | hp := isPeriodicPt_sigmaSource i
    · exact hp.trans_dvd (Nat.dvd_trans (by decide) h)
    · exact hp.trans_dvd (Nat.dvd_trans (by decide) h)

/-- Settles O36: the identity is exactly the powers whose exponent 180 divides. -/
theorem sigmaHasOrder180 : Obligations.SigmaHasOrder180 := by
  have horder (n : Nat) := (iterate_sigma_eq_self_iff n).trans (isPeriodicPt_sigmaSource_iff n)
  refine ⟨(horder 180).2 dvd_rfl, fun n h0 hn => ?_⟩
  by_contra! h
  exact Nat.not_dvd_of_pos_of_lt h0 hn ((horder n).1 h)

end Sys2Proof.Machine
end

section
/-! SUPPORT. The round-key words one by one, and the Complete steps of the commands of the key schedule
(43_key_schedule.md R145–R148). -/

namespace Sys2Proof

@[simp] theorem Block.word_xor (x y : Block) (j : Fin 4) : (x.xor y).word j = x.word j ^^^ y.word j := by
  match j with
  | 0 | 1 | 2 | 3 => rfl

end Sys2Proof

namespace Sys2Proof.Machine

/-- Word `j` of what extraction step `i` appends. -/
theorem extracted_word (k : Block) (i : Nat) (l : Block) (j : Fin 4) :
    (extracted k i l).word j = l.word j ^^^ con (24 + 4 * i + j) ^^^ (if i % 2 = 1 then k.word j else 0) := by
  have hcon : Block.word ⟨con (24 + 4 * i), con (25 + 4 * i), con (26 + 4 * i), con (27 + 4 * i)⟩ j =
      con (24 + 4 * i + j) := by
    match j with
    | 0 => rfl
    | 1 | 2 | 3 => exact congrArg con (by simp; omega)
  unfold extracted
  split_ifs <;> simp [hcon]

/-- The words of the first extraction step. -/
theorem extraction_succ_getD_first (k : Block) (n i : Nat) (l : Block) (j : Fin 4) :
    (extraction k (n + 1) i l).getD j 0 = (extracted k i l).word j := by
  match j with
  | 0 | 1 | 2 | 3 => rfl

/-- The words of a later extraction step. -/
theorem extraction_succ_getD_later (k : Block) (n i : Nat) (l : Block) (m : Nat) :
    (extraction k (n + 1) i l).getD (m + 4) 0 = (extraction k n (i + 1) (sigma l)).getD m 0 := rfl

/-- Step `m` of an extraction from `l` works on the `m`-fold double-swap of `l`. -/
theorem extraction_getD (k : Block) {n m : Nat} (hm : m < n) (i : Nat) (l : Block) (j : Fin 4) :
    (extraction k n i l).getD (4 * m + j) 0 = (extracted k (i + m) (sigma^[m] l)).word j := by
  induction m generalizing n i l with
  | zero =>
    obtain ⟨n, rfl⟩ := Nat.exists_eq_add_one.2 hm
    rw [Nat.mul_zero, Nat.zero_add, extraction_succ_getD_first]
    rfl
  | succ m ih =>
    obtain ⟨n, rfl⟩ := Nat.exists_eq_add_one.2 (Nat.zero_lt_of_lt hm)
    rw [show 4 * (m + 1) + (j : Nat) = 4 * m + j + 4 by omega, extraction_succ_getD_later,
      ih (Nat.lt_of_succ_lt_succ hm), Nat.add_right_comm, Nat.add_assoc, Function.iterate_succ_apply]

/-- The round-key word that extraction step `i` appends in place `j`. -/
theorem roundKey_roundKeys (k l : Block) (i : Fin 9) (j : Fin 4) :
    roundKey (roundKeys k l) (4 * i + j) =
      (sigma^[i] l).word j ^^^ con (24 + 4 * i + j) ^^^ (if i.val % 2 = 1 then k.word j else 0) := by
  have h := extraction_getD k i.isLt 0 l j
  rwa [Nat.zero_add, extracted_word] at h

/-- Settles O19: each is the end of its pseudocode. -/
theorem keyScheduleCommandsComplete : Obligations.KeyScheduleCommandsComplete :=
  fun _ => ⟨exec_instr_of_due (op := .sigma) nofun, exec_instr_of_due (op := .ksexp) nofun,
    exec_instr_of_due (op := .setkey) nofun⟩

/-- Settles O37: the registers as SETKEY leaves them, and the round keys word by word. -/
theorem setkeyExtractsTheRoundKeys : Obligations.SetkeyExtractsTheRoundKeys :=
  fun s hd => ⟨_, exec_instr_of_due (op := .setkey) nofun hd, rfl, rfl, roundKey_roundKeys s.key (ksx s.key)⟩

end Sys2Proof.Machine
end

section
/-! SUPPORT. A round of either network is the two F steps, which undo themselves, and then a rotation of the
branches; from this the two networks are inverse to each other (44_feistel_cipher.md R160–R162). -/

namespace Sys2Proof.Machine

/-- The left rotation of the four branches; the right rotation is its inverse. -/
def rotateBranches : Block ≃ Block where
  toFun t := ⟨t.w1, t.w2, t.w3, t.w0⟩
  invFun t := ⟨t.w3, t.w0, t.w1, t.w2⟩
  left_inv _ := rfl
  right_inv _ := rfl

/-- The two F steps of a round, forward or inverse: F0 on branch 0 into branch 1, F1 on branch 2 into
branch 3. -/
def feistelStep (k0 k1 : Word) (t : Block) : Block :=
  ⟨t.w0, t.w1 ^^^ roundF0 k0 t.w0, t.w2, t.w3 ^^^ roundF1 k1 t.w2⟩

theorem forwardRound_eq (k0 k1 : Word) (t : Block) :
    forwardRound k0 k1 t = rotateBranches (feistelStep k0 k1 t) := rfl

theorem inverseRound_eq (k0 k1 : Word) (t : Block) :
    inverseRound k0 k1 t = rotateBranches.symm (feistelStep k0 k1 t) := rfl

theorem gfn4_eq (r : Nat) (rk : Nat → Word) (x : Block) :
    gfn4 r rk x = rotateBranches.symm (forwardRounds rk r 0 x) := rfl

theorem gfn4inv_eq (r : Nat) (rk : Nat → Word) (x : Block) :
    gfn4inv r rk x = rotateBranches (inverseRounds r rk r 0 x) := rfl

/-- No property of F0 and F1 is used: the branches they read are the ones that the step keeps. -/
theorem feistelStep_involutive (k0 k1 : Word) : Function.Involutive (feistelStep k0 k1) := fun t => by
  simp [feistelStep]

/-- The inverse round undoes the forward round with the same keys, up to the rotation of the branches. -/
theorem inverseRound_eq_iff (k0 k1 : Word) (x y : Block) :
    inverseRound k0 k1 y = rotateBranches.symm x ↔ y = rotateBranches.symm (forwardRound k0 k1 x) := by
  rw [inverseRound_eq, forwardRound_eq, Equiv.symm_apply_apply, rotateBranches.symm.apply_eq_iff_eq]
  exact (feistelStep_involutive k0 k1).eq_iff

/-- The inverse loop's last round, split off. -/
theorem inverseRounds_succ_last (r : Nat) (rk : Nat → Word) (n i : Nat) (t : Block) :
    inverseRounds r rk (n + 1) i t =
      inverseRound (rk (2 * (r - 1 - (i + n)))) (rk (2 * (r - 1 - (i + n)) + 1)) (inverseRounds r rk n i t) := by
  induction n generalizing i t with
  | zero => rfl
  | succ n ih =>
    rw [inverseRounds, ih, inverseRounds, Nat.add_right_comm i 1 n]
    rfl

/-- The inverse rounds from `i` undo the forward rounds from `j` where both use the key pairs `j` to
`j+n-1`: the first forward round is undone by the last inverse round. -/
theorem inverseRounds_eq_iff {r n i j : Nat} (h : i + n + j = r) (rk : Nat → Word) (x y : Block) :
    inverseRounds r rk n i (rotateBranches.symm y) = rotateBranches.symm x ↔ forwardRounds rk n j x = y := by
  induction n generalizing j x with
  | zero => exact rotateBranches.symm.apply_eq_iff_eq.trans eq_comm
  | succ n ih =>
    have hkey : r - 1 - (i + n) = j := by omega
    rw [inverseRounds_succ_last, hkey, inverseRound_eq_iff, ih (j := j + 1) (by omega), forwardRounds]

theorem gfn4inv_eq_iff (r : Nat) (rk : Nat → Word) (x y : Block) :
    gfn4inv r rk y = x ↔ gfn4 r rk x = y := by
  rw [gfn4inv_eq, gfn4_eq, Equiv.symm_apply_eq, ← inverseRounds_eq_iff (i := 0) (Nat.zero_add r),
    Equiv.symm_apply_apply, Equiv.eq_symm_apply]

/-- Settles O38: an output of the one network is an input of the other. -/
theorem feistelNetworksAreInverse : Obligations.FeistelNetworksAreInverse :=
  fun r rk _ => ⟨(gfn4inv_eq_iff r rk _ _).2 rfl, (gfn4inv_eq_iff r rk _ _).1 rfl⟩

end Sys2Proof.Machine
end

section
/-! SUPPORT. The Complete steps of the cipher's commands, and decryption as the inverse of encryption
(44_feistel_cipher.md R163–R168). -/

namespace Sys2Proof.Machine

theorem whiten_involutive (a b : Word) : Function.Involutive (whiten a b) := fun t => by
  simp [whiten]

/-- The two whitenings of the one direction are those of the other in reverse. -/
theorem dec_eq_iff (wk : Block) (rk : Nat → Word) (p c : Block) : dec wk rk c = p ↔ enc wk rk p = c := by
  rw [dec, enc, (whiten_involutive _ _).eq_iff, (whiten_involutive _ _).eq_iff, gfn4inv_eq_iff]

/-- Settles O20: each is the end of its pseudocode. -/
theorem cipherCommandsWriteDout : Obligations.CipherCommandsWriteDout :=
  fun _ => ⟨exec_instr_of_due (op := .gfnf) nofun, exec_instr_of_due (op := .gfni) nofun,
    exec_instr_of_due (op := .enc) nofun, exec_instr_of_due (op := .dec) nofun⟩

/-- Settles O39: both commands are run on the one context, where their functions undo each other. -/
theorem decAndEncUndoEachOther : Obligations.DecAndEncUndoEachOther := by
  intro s u t hwk hrk hdin
  obtain ⟨-, -, henc, hdec⟩ := cipherCommandsWriteDout s
  obtain ⟨-, -, henc', hdec'⟩ := cipherCommandsWriteDout u
  rw [hwk, hrk, hdin] at henc' hdec'
  refine ⟨fun hs hu ht => ⟨_, hdec' hu, ?_⟩, fun hs hu ht => ⟨_, henc' hu, ?_⟩⟩
  · cases (henc hs).symm.trans ht
    exact (dec_eq_iff _ _ _ _).2 rfl
  · cases (hdec hs).symm.trans ht
    exact (dec_eq_iff _ _ _ _).1 rfl

end Sys2Proof.Machine
end

section
/-! SUPPORT. The compression from the commands SETKEY and ENC, and the length that the host pads a message to
(45_hash.md R181–R183). -/

namespace Sys2Proof.Machine

/-- The compression, from any cipher context and plaintext that agree with the block and the hash state. -/
theorem daviesMeyer_eq_enc_xor {h m wk p : Block} {rk : Vector Word 36} (hwk : wk = m)
    (hrk : rk = roundKeys m (ksx m)) (hp : p = h) : daviesMeyer h m = (enc wk (roundKey rk) p).xor h := by
  rw [hwk, hrk, hp, daviesMeyer]

/-- Settles O40: SETKEY leaves the context of the block, so ENC's output under it is the cipher output inside
HBLK's compression. -/
theorem hblkIsSetkeyThenEncThenFeedback : Obligations.HblkIsSetkeyThenEncThenFeedback := by
  intro s k e hs hk hkey k' hk' he hwk hrk hdin e' he'
  cases (exec_instr_of_due (op := .setkey) nofun hk).symm.trans hk'
  cases (exec_instr_of_due (op := .enc) nofun he).symm.trans he'
  have hwk' : e.wk = s.din := hwk.trans hkey
  have hrk' : e.rk = roundKeys s.din (ksx s.din) := hkey ▸ hrk
  exact ⟨_, exec_instr_of_due (op := .hblk) nofun hs, daviesMeyer_eq_enc_xor hwk' hrk' hdin, rfl, rfl,
    hkey.symm, congrArg ksx hkey.symm, congrArg (fun m => roundKeys m (ksx m)) hkey.symm⟩

/-- The padded length is the least multiple of 16 above the message's length. -/
theorem length_pad (m : List Byte) : (pad m).length = 16 * (m.length / 16 + 1) := by
  have hlen : (pad m).length = m.length + (15 - m.length % 16 + 1) := by
    rw [pad, List.length_append, List.length_cons, List.length_replicate]
  omega

/-- Settles O41: `pad`'s own count of zero bytes, and then its length among the multiples of 16. -/
theorem paddingReachesTheNextBlock : Obligations.PaddingReachesTheNextBlock := by
  intro m
  have hlen := length_pad m
  refine ⟨15 - m.length % 16, rfl, Nat.sub_le .., rfl, ?multiple, ?above, fun n hn hmod => ?least⟩
  case multiple => rw [hlen, Nat.mul_mod_right]
  case above => omega
  case least => omega

end Sys2Proof.Machine
end

section
/-! SUPPORT. The Complete steps of NOP, HINIT and HBLK (46_control.md R190; 45_hash.md R180, R181). -/

namespace Sys2Proof.Machine

/-- Settles O21: each is the end of its pseudocode. -/
theorem nopAndHashCommandsComplete : Obligations.NopAndHashCommandsComplete :=
  fun _ => ⟨exec_instr_of_due (op := .nop) nofun, exec_instr_of_due (op := .hinit) nofun,
    exec_instr_of_due (op := .hblk) nofun⟩

end Sys2Proof.Machine
end

section
/-! SUPPORT. What the reset state reads at each index (70_reset_and_hazards.md R240), and SRST
(46_control.md R191). -/

namespace Sys2Proof.Machine

/-- Only ID stands at index 0. -/
theorem addr_eq_zero_iff (r : Reg) : r.addr = 0x00 ↔ r = .ident :=
  ⟨fun h => Option.some.inj ((regAt_addr r).symm.trans (congrArg regAt h)), fun h => h ▸ rfl⟩

/-- Every register but ID holds 0 in the reset state. -/
theorem regValue_reset {r : Reg} (h : r ≠ .ident) : regValue State.reset r = 0 := by
  cases r with
  | ident => exact absurd rfl h
  | cmd | status | irqen | opa | opb | res => rfl
  | key j | din j | dout j | hst j | wk j | ksl j => clear h; revert j; decide
  | rk i => exact (roundKey_eq_getElem _ i).trans (Vector.getElem_replicate i.isLt)

/-- With no command running, each register reads as the value it holds. -/
theorem memRead_addr_of_idle {s : State} (hb : s.busy = false) (r : Reg) :
    memRead r.addr s = (regValue s r, s) := by
  simp only [memRead, regAt_addr, hb, Bool.false_and, Bool.false_eq_true, if_false]

theorem memRead_of_reserved {a : BitVec 8} (h : reservedIndex a = true) (s : State) :
    memRead a s = (0, s) := by
  simp only [memRead, (regAt_eq_none_iff a).2 h]

/-- An idle state whose registers hold their reset values reads as at reset, at every index. -/
theorem memRead_of_regValue_reset {s : State} (hb : s.busy = false)
    (hv : ∀ r, regValue s r = regValue State.reset r) (a : BitVec 8) :
    (memRead a s).1 = if a = 0x00 then 0x4E535531 else 0 := by
  obtain hr | ⟨r, rfl⟩ := reserved_or_addr a
  · have ha : a ≠ 0x00 := by rintro rfl; cases hr
    rw [memRead_of_reserved hr, if_neg ha]
  · rw [memRead_addr_of_idle hb, hv]
    by_cases hi : r = .ident
    · subst hi; rfl
    · rw [regValue_reset hi, if_neg (mt (addr_eq_zero_iff r).1 hi)]

/-- The reset state is at reset whatever the fields are that are no state of the core. -/
theorem atReset_reset_with (rdata : Word) (host : List HostLine) (draws : Nat) :
    AtReset { State.reset with rdata := rdata, host := host, draws := draws } :=
  ⟨memRead_of_regValue_reset rfl fun r => by cases r <;> rfl, rfl, rfl, rfl, rfl, rfl, rfl, rfl, rfl, rfl⟩

/-- What SRST and a write of its word leave. -/
theorem atReset_resetAll (s : State) : AtReset (resetAll s) := atReset_reset_with s.rdata s.host s.draws

/-- Settles O22: SRST is `resetAll`, and so is the issue of its word. -/
theorem srstResetsFromEveryState : Obligations.SrstResetsFromEveryState :=
  ⟨encode_instr .srst, fun s => ⟨resetAll s, rfl,
    (exec_wr_cmd (encodeCmd .srst) s).trans (congrArg _ (issue_srst s)), atReset_resetAll s,
    resetAll_rdata s, resetAll_host s, resetAll_draws s⟩⟩

end Sys2Proof.Machine
end

section
/-! SUPPORT. What a running command does to reads and writes, and that nothing stops the machine
(60_exceptions.md R212, R213, R217). -/

namespace Sys2Proof.Machine

/-- Settles O6: the outcome of an instruction by its kind, and that of a step by who moves. -/
theorem everyInstructionAndStepGoesOn : Obligations.EveryInstructionAndStepGoesOn :=
  ⟨exists_exec_eq_next, exists_step_eq_next⟩

/-- Settles O10: the rule for each kind of index, in a state with BUSY = 1. -/
theorem writesToARunningCommandAreDropped : Obligations.WritesToARunningCommandAreDropped := by
  intro s hb
  refine ⟨?dropped, fun _ => rfl, fun _ => rfl, fun a v h => exec_wr_of_ignored h v s, fun a => ?read⟩
  case dropped =>
    rintro a v (⟨rfl, hv⟩ | hi)
    · rw [exec_wr_cmd, issue_of_busy hb hv, raiseError]
    · exact exec_wr_of_inputIndex_of_busy hi v hb
  case read =>
    obtain ⟨t, ht⟩ := exists_exec_eq_next (.rd a) s
    obtain ⟨v, n, rfl⟩ := exec_rd_cases ht
    exact ⟨v, n, ht⟩

end Sys2Proof.Machine
end

section
/-! SUPPORT. How an error bit changes over a command, a host write and a step (60_exceptions.md R210–R212, R215):
one lemma each for the three bits, as for the flags of 10_state.md R26. Of the raising of a bit the lemmas tell
the cause for ERR_NOKEY. -/

namespace Sys2Proof.Machine

/-- The STATUS bit of an error cause; `c.code` is its bit number. -/
def errorBit (c : ErrorCause) (s : State) : Bool :=
  match c with
  | .illegal => s.errIll
  | .noKey => s.errNoKey
  | .busy => s.errBusy

@[simp] theorem errorBit_resetAll (c : ErrorCause) (s : State) : errorBit c (resetAll s) = false := by
  cases c <;> rfl

@[simp] theorem errorBit_resetCycle (c : ErrorCause) (s : State) : errorBit c (resetCycle s) = false := by
  cases c <;> rfl

@[simp] theorem errorBit_tick (c : ErrorCause) (s : State) : errorBit c (tick s) = errorBit c s := rfl

@[simp] theorem errorBit_finish (c : ErrorCause) (s : State) : errorBit c (finish s) = errorBit c s := rfl

@[simp] theorem errorBit_effect (c : ErrorCause) (op : Opcode) (s : State) :
    errorBit c (effect op s) = errorBit c s := by
  cases c with
  | illegal => exact effect_errIll op s
  | noKey => exact effect_errNoKey op s
  | busy => exact effect_errBusy op s

theorem errorBit_raiseError (c d : ErrorCause) (s : State) :
    errorBit c (raiseError d s) = (errorBit c s || decide (d = c)) := by
  cases c with
  | illegal => exact raiseError_errIll d s
  | noKey => exact raiseError_errNoKey d s
  | busy => exact raiseError_errBusy d s

theorem errorBit_writeStatus (c : ErrorCause) (v : Word) (s : State) :
    errorBit c (writeStatus v s) = (errorBit c s && !v.getLsbD c.code) := by
  cases c <;> rfl

/-- Raising an error leaves each bit as it was, but sets its own. -/
theorem raiseError_errorBit_cases (c d : ErrorCause) (s : State) :
    errorBit c (raiseError d s) = errorBit c s ∨ (errorBit c (raiseError d s) = true ∧ d = c) := by
  rw [errorBit_raiseError]
  by_cases h : d = c
  · exact .inr (by simp [h])
  · exact .inl (by simp [h])

/-- A write of `v` to CMD is rejected for want of a context: `v` is the word of a cipher command, and BUSY = 0
and KEYV = 0 (60_exceptions.md R211). -/
def RejectedForKey (v : Word) (s : State) : Prop :=
  s.busy = false ∧ s.keyv = false ∧ ∃ op, needsKey op = true ∧ v = encodeCmd op

/-- An error bit after a write to CMD. -/
theorem issue_errorBit_cases (c : ErrorCause) (v : Word) (s : State) :
    errorBit c (issue v s) = errorBit c s ∨ (errorBit c (issue v s) = false ∧ v = 0x000000FF) ∨
      (errorBit c (issue v s) = true ∧ (c = .noKey → RejectedForKey v s)) := by
  obtain ⟨-, hv, hi⟩ | ⟨-, -, hi⟩ | ⟨-, -, hi⟩ | ⟨-, hv, hi⟩ | ⟨op, hb, hv, -, hn, hk, hi⟩ |
    ⟨_, -, -, -, -, hi⟩ := issue_cases v s <;> rw [hi]
  · exact .inr (.inl ⟨errorBit_resetAll c s, hv⟩)
  · obtain h | ⟨h, rfl⟩ := raiseError_errorBit_cases c .busy s
    · exact .inl h
    · exact .inr (.inr ⟨h, nofun⟩)
  · obtain h | ⟨h, rfl⟩ := raiseError_errorBit_cases c .illegal { s with cmd := v, done := false }
    · exact .inl h
    · exact .inr (.inr ⟨h, nofun⟩)
  · exact .inr (.inl ⟨errorBit_resetAll c s, hv⟩)
  · obtain h | ⟨h, -⟩ := raiseError_errorBit_cases c .noKey { s with cmd := v, done := false }
    · exact .inl h
    · exact .inr (.inr ⟨h, fun _ => ⟨hb, hk, op, hn, hv⟩⟩)
  · exact .inl rfl

/-- An error bit after a host write. -/
theorem memWrite_errorBit_cases (c : ErrorCause) (a : BitVec 8) (v : Word) (s : State) :
    errorBit c (memWrite a v s) = errorBit c s ∨
      (errorBit c (memWrite a v s) = false ∧
        ((a = 0x01 ∧ v = 0x000000FF) ∨ (a = 0x02 ∧ v.getLsbD c.code = true))) ∨
      (errorBit c (memWrite a v s) = true ∧ (c = .noKey → a = 0x01 ∧ RejectedForKey v s)) := by
  obtain ⟨ha, hm⟩ | ⟨ha, hm⟩ | ⟨-, hm⟩ | ⟨-, hm⟩ | ⟨_, -, -, hm⟩ | ⟨_, -, -, hm⟩ | ⟨_, -, -, hm⟩ |
    ⟨-, -, hm⟩ | ⟨-, -, hm⟩ | hm := memWrite_cases a v s <;> rw [hm]
  · obtain h | ⟨h, hv⟩ | ⟨h, hc⟩ := issue_errorBit_cases c v s
    · exact .inl h
    · exact .inr (.inl ⟨h, .inl ⟨ha, hv⟩⟩)
    · exact .inr (.inr ⟨h, fun hn => ⟨ha, hc hn⟩⟩)
  · rw [errorBit_writeStatus]
    cases hv : v.getLsbD c.code
    · exact .inl (Bool.and_true _)
    · exact .inr (.inl ⟨Bool.and_false _, .inr ⟨ha, rfl⟩⟩)
  · exact .inl rfl
  · obtain h | ⟨h, rfl⟩ := raiseError_errorBit_cases c .busy s
    · exact .inl h
    · exact .inr (.inr ⟨h, nofun⟩)
  all_goals exact .inl rfl

/-- A due Complete step raises no error, and clears one only as SRST, which is never accepted to run. -/
theorem complete_errorBit_cases (c : ErrorCause) {s t : State} (hc : completing s = true)
    (h : exec s.pend.instr s = .next t) :
    errorBit c t = errorBit c s ∨ (errorBit c t = false ∧ s.pend = .srst) := by
  obtain ⟨hb, hl⟩ := (completing_iff s).1 hc
  by_cases hs : s.pend = .srst
  · rw [hs] at h
    cases h
    exact .inr ⟨errorBit_resetAll c s, hs⟩
  · rw [exec_instr_of_due hs ⟨hb, hl, rfl⟩] at h
    cases h
    exact .inl (by simp)

/-- An error bit after a step. -/
theorem step_errorBit_cases (c : ErrorCause) {s t : State} (h : step s = .next t) :
    errorBit c t = errorBit c s ∨
      (errorBit c t = false ∧
        ((s.busy = true ∧ s.pend = .srst) ∨ nextResets s ∨
          ∃ v, nextWrites s 0x02 v ∧ v.getLsbD c.code = true)) ∨
      (errorBit c t = true ∧ (c = .noKey → ∃ v, nextWrites s 0x01 v ∧ RejectedForKey v s)) := by
  obtain ⟨hc, hx⟩ | ⟨hr, rest, rfl⟩ | ⟨a, v, rest, hw, rfl⟩ | ⟨_, _, _, -, rfl⟩ := step_kinds h
  · obtain hk | ⟨hk, hs⟩ := complete_errorBit_cases c hc hx
    · exact .inl hk
    · exact .inr (.inl ⟨hk, .inl ⟨((completing_iff s).1 hc).1, hs⟩⟩)
  · exact .inr (.inl ⟨errorBit_resetCycle c _, .inr (.inl hr)⟩)
  · rw [errorBit_tick]
    obtain hk | ⟨hk, ⟨rfl, rfl⟩ | ⟨rfl, hv⟩⟩ | ⟨hk, hn⟩ :=
      memWrite_errorBit_cases c a v { s with host := rest }
    · exact .inl hk
    · exact .inr (.inl ⟨hk, .inr (.inl (.inr hw))⟩)
    · exact .inr (.inl ⟨hk, .inr (.inr ⟨v, hw, hv⟩)⟩)
    · refine .inr (.inr ⟨hk, fun h => ?_⟩)
      obtain ⟨rfl, hj⟩ := hn h
      exact ⟨v, hw, hj⟩
  · exact .inl rfl

/-- An error bit that is 1 stays 1 over a step, but for a reset or a write of 1 to it. -/
theorem step_errorBit_sticky (c : ErrorCause) {s t : State} (hp : PendingAccepted s) (h : step s = .next t)
    (h1 : errorBit c s = true) :
    errorBit c t = true ∨ nextResets s ∨ ∃ v, nextWrites s 0x02 v ∧ v.getLsbD c.code = true := by
  obtain hk | ⟨-, ⟨hb, hs⟩ | hr⟩ | ⟨hk, -⟩ := step_errorBit_cases c h
  · exact .inl (hk.trans h1)
  · exact absurd hs (hp hb).1
  · exact .inr hr
  · exact .inl hk

/-- Settles O15: stickiness bit by bit, and one equation of the operation for each other clause. -/
theorem errorBitsAreSticky : Obligations.ErrorBitsAreSticky := by
  refine ⟨fun s t hp h => ⟨step_errorBit_sticky .illegal hp h, step_errorBit_sticky .noKey hp h,
    step_errorBit_sticky .busy hp h⟩, ?accepted, fun s v => ⟨writeStatus v s, rfl, rfl, rfl, rfl⟩,
    fun s hi hb => ⟨_, exec_wr_of_inputIndex_of_busy (a := 0x0C) rfl 0 hb, hi, rfl⟩⟩
  case accepted =>
    intro s op hs hb hk
    rw [exec_instr_of_not_due op (by simp [hb]), issue_accepted hb hs hk]
    exact ⟨_, rfl, rfl, rfl, rfl, rfl, rfl⟩

/-- With no command running, a cipher command without its key is rejected. -/
theorem exec_instr_without_key {op : Opcode} {s : State} (hb : s.busy = false) (hn : needsKey op = true)
    (hk : s.keyv = false) :
    exec op.instr s = .next { s with cmd := encodeCmd op, done := false, errNoKey := true } := by
  rw [exec_instr_of_not_due op (by simp [hb]), issue_without_key hb hn hk, raiseError]

theorem instr_mem_of_needsKey {op : Opcode} (h : needsKey op = true) :
    op.instr ∈ [Instr.gfnf, .gfni, .enc, .dec] := by
  cases op with
  | gfnf | gfni | enc | dec => decide
  | _ => cases h

/-- A bit that rises has the cause of a rise. -/
theorem cause_of_rise {x y : Bool} {P Q : Prop} (h : y = x ∨ (y = false ∧ Q) ∨ (y = true ∧ P))
    (hx : x = false) (hy : y = true) : P := by
  obtain hk | ⟨hk, -⟩ | ⟨-, hp⟩ := h
  · simp [hx, hy] at hk
  · simp [hy] at hk
  · exact hp

/-- A command that raises ERR_NOKEY is a cipher command, issued where it is rejected for want of a context. -/
theorem needsKey_of_exec_instr {op : Opcode} {s t : State} (h : exec op.instr s = .next t)
    (h0 : s.errNoKey = false) (h1 : t.errNoKey = true) :
    s.busy = false ∧ s.keyv = false ∧ needsKey op = true := by
  by_cases hd : due op s
  · obtain ⟨hb, hl, rfl⟩ := hd
    obtain hk | ⟨hk, -⟩ := complete_errorBit_cases .noKey ((completing_iff s).2 ⟨hb, hl⟩) h <;>
      simp [errorBit, h0, h1] at hk
  · rw [exec_instr_of_not_due op hd] at h
    cases h
    obtain ⟨hb, hk, _, hn, hv⟩ := cause_of_rise (issue_errorBit_cases .noKey _ s) h0 h1 rfl
    exact ⟨hb, hk, encodeCmd_injective hv ▸ hn⟩

/-- Settles O9: the rejection is that of `issue`, and ERR_NOKEY rises by it alone. -/
theorem cipherCommandsNeedAKey : Obligations.CipherCommandsNeedAKey := by
  refine ⟨fun s hb hk => ⟨exec_instr_without_key (op := .gfnf) hb rfl hk,
    exec_instr_without_key (op := .gfni) hb rfl hk, exec_instr_without_key (op := .enc) hb rfl hk,
    exec_instr_without_key (op := .dec) hb rfl hk⟩, fun i s t h h0 h1 => ?instr, fun s t h h0 h1 => ?step⟩
  case instr =>
    obtain ⟨op, rfl⟩ | ⟨a, rfl⟩ | ⟨a, v, rfl⟩ := instr_cases i
    · obtain ⟨hb, hk, hn⟩ := needsKey_of_exec_instr h h0 h1
      exact ⟨hb, hk, .inl (instr_mem_of_needsKey hn)⟩
    · obtain ⟨v, n, rfl⟩ := exec_rd_cases h
      exact absurd (h0.symm.trans h1) (by decide)
    · cases h
      obtain ⟨rfl, hb, hk, hv⟩ := cause_of_rise (memWrite_errorBit_cases .noKey a v s) h0 h1 rfl
      exact ⟨hb, hk, .inr ⟨v, mem_keyWords_iff.2 hv, rfl⟩⟩
  case step =>
    obtain ⟨v, hw, hb, hk, hv⟩ := cause_of_rise (step_errorBit_cases .noKey h) h0 h1 rfl
    exact ⟨hb, hk, v, mem_keyWords_iff.2 hv, hw⟩

end Sys2Proof.Machine
end

section
/-! SUPPORT. The reset cycle, right away and after a Complete step that was due when it was presented
(70_reset_and_hazards.md R241), and the invariant at reset (R240; 10_state.md R37). -/

namespace Sys2Proof.Machine

/-- A presented cycle with `rst = 1` resets the core, whatever its other pins are. -/
theorem step_of_rst {s : State} {p : Pins} {rest : List HostLine} (hc : completing s = false)
    (hh : s.host = .cycle p :: rest) (hr : p.rst = true) :
    step s = .next (resetCycle { s with host := rest }) := by
  have hm : nextMove s = .quiet (resetCycle { s with host := rest }) := by
    simp [nextMove, hc, hh, hr]
  simp only [step, hm]

theorem atReset_resetCycle (s : State) : AtReset (resetCycle s) := atReset_reset_with _ _ _

/-- In the reset cycle the core reaches the reset state, and the host list goes on after it. -/
theorem exists_step_atReset {s : State} {p : Pins} {rest : List HostLine} (hc : completing s = false)
    (hh : s.host = .cycle p :: rest) (hr : p.rst = true) : ∃ t, step s = .next t ∧ AtReset t ∧ t.host = rest :=
  ⟨_, step_of_rst hc hh hr, atReset_resetCycle _, rfl⟩

/-- A Complete step leaves what the host will present, SRST's own included. -/
theorem step_host_of_completing {s t : State} (hc : completing s = true) (h : step s = .next t) :
    t.host = s.host := by
  by_cases hs : s.pend = .srst
  · rw [step_of_completing hc, hs] at h
    cases h
    exact resetAll_host s
  · rw [step_of_completing_of_ne_srst hc hs] at h
    cases h
    exact effect_host s.pend s

/-- Settles O23: the reset cycle is one step, and a due Complete step taken before it leaves the core idle with
that cycle still presented. -/
theorem resetLeavesEveryRegisterAtItsValue : Obligations.ResetLeavesEveryRegisterAtItsValue := by
  refine ⟨atReset_resetAll State.reset, fun s => ⟨_, rfl, atReset_resetAll s⟩,
    fun s p rest => exists_step_atReset, fun s p rest hc hh hr => ?due⟩
  case due =>
    obtain ⟨hb, hl⟩ := (completing_iff s).1 hc
    obtain ⟨u, hu⟩ := exists_step_eq_next s
    have hidle : completing u = false := completing_of_idle (step_of_due hb hl hu)
    have hhost : u.host = .cycle p :: rest := (step_host_of_completing hc hu).trans hh
    obtain ⟨t, ht⟩ := exists_step_atReset hidle hhost hr
    exact ⟨u, t, hu, ht⟩

/-- Settles O26: the reset state is what `resetAll` makes of it. -/
theorem resetMeetsTheInvariant : Obligations.ResetMeetsTheInvariant := machineInv_resetAll State.reset

end Sys2Proof.Machine
end
